-- ==== Sys2Proof/Word.lean ====
section
/-! DEFINITION. The word types of the dct-sandbox transform engine: the 32-bit words of the register window and of
the commands (20_memory.md R102, 30_encoding.md R140), and the elements of the matrix registers (00_scope.md R14). -/

namespace Sys2Proof

/-- A register of the window, or a command word (R102, R140). Bit 0 is the least significant bit (R9). -/
abbrev Word := BitVec 32

/-- A real element: an IEEE 754 binary64 pattern, sign bit 63, exponent bits 62:52, fraction bits 51:0 (R14). -/
abbrev F64 := BitVec 64

/-- A complex element: an ordered pair of binary64 values (R14). -/
structure C64 where
  re : F64
  im : F64
deriving DecidableEq, Repr, Inhabited

end Sys2Proof
end

