-- ==== Sys2Proof/Config.lean ====
section
/-! DEFINITION. The implementation parameters of 00_scope.md R7 and the free values: what the spec leaves open is an
opaque constant here, with no body, so that no proof can learn a value of it. `ROUND_TIES` and `QTAB` are parameters of
the build too; State holds them as plain data (log 6). -/

namespace Sys2Proof

/-- `ROUND_TIES`, the tie rule of `rnd` (R7, R24). -/
inductive RoundTies where
  | even
  | away
deriving DecidableEq, Repr

/-- The basis families of `NUM.cosb` (R27): DCT-I, DCT-II and DCT-IV. DCT-III is built by `NUM.inv`. -/
inductive BasisFamily where
  | dctI
  | dctII
  | dctIV
deriving DecidableEq, Repr

/-- The operations that can produce a NaN (R16, R18, R24). -/
inductive FpOp where
  | add
  | sub
  | mul
  | div
  | rnd
deriving DecidableEq, Repr

namespace Config

/-- `BLK`: block edge of the image-path commands (R7). -/
def blk : Nat := 8

/-- `D_MAX`: largest row or column count of a square matrix register (R7, D6). -/
def dMax : Nat := 16

/-- `CAP`: element capacity of one matrix register (R7, D6). -/
def cap : Nat := dMax * dMax

/-- `NV`: number of matrix registers (R7, D6). -/
def nv : Nat := 8

/-- `NK`: number of mask registers (R7, D9). -/
def nk : Nat := 4

/-- `DEPTHS`: the legal bit depths (R7). -/
def depths : List Nat := [8, 16]

/-- Free value (R18, D30, log 5): sign bit and 52 payload bits of the NaN that an operation produces at a cell from
two operands. -/
opaque nanBits (op : FpOp) (cell : Nat) (a b : F64) : BitVec 53

/-- Free value (R27, D4, log 3): `NUM.cosb(t, n)`, the element at a raster index. -/
opaque numCosb (t : BasisFamily) (n cell : Nat) : F64

/-- Free value (R27, D4, log 3): `NUM.omega(n)`, the element at a raster index. -/
opaque numOmega (n cell : Nat) : C64

/-- Free value (R27, D4, log 3): `NUM.inv(A)` of a square matrix of order n, the element at a raster index. -/
opaque numInv (n : Nat) (a : List F64) (cell : Nat) : F64

/-- Free value (R27, D4, log 3): `NUM.kron(B, M)`, the element at a raster index, before P-ZERO (log 4). -/
opaque numKron (b m : List F64) (cell : Nat) : F64

/-- Free value (R27, D4, log 3): `NUM.rsim(L, M, R)`, the element at a raster index, before P-ZERO (log 4). -/
opaque numRsim (l m r : List F64) (cell : Nat) : F64

/-- Free value (R27, D4, log 3): `NUM.csim(L, M, R)`, the element at a raster index, before P-ZERO (log 4). -/
opaque numCsim (l m r : List C64) (cell : Nat) : C64

/-- Free value (`LATENCY`, R7, D47, log 2): how many un-held host events get ahead of the engine's step, drawn anew for
each command issued. -/
opaque latency (draw : Nat) : Nat

/-- Free value (`ENGINE_BASE`, R7, D2, log 14): the number of the 256-byte page the window stands at. -/
opaque enginePage : Nat

end Config
end Sys2Proof
end

