-- ==== Sys2Proof/Syntax.lean ====
section
/-! DEFINITION. The command set DTE-1: one constructor per row of spec/opcode_table.json (30_encoding.md R148). Register
fields are plain indices and every value of them names a register (R143), so they are Fin; the unsigned immediates
(R144, R146) are Nat, and WellFormed says what their fields can hold. -/

namespace Sys2Proof

/-- The mask policies (30_encoding.md R147, 45_mask.md R280); POL = 3 is no policy. -/
inductive Policy where
  | lin
  | diag
  | quad
deriving DecidableEq, Repr

/-- The commands, in the order of the opcode map (30_encoding.md R148). -/
inductive Instr where
  | nop
  | mkc1 (vd : Fin 8) (n : Nat)
  | mkc2 (vd : Fin 8) (n : Nat)
  | mkc3 (vd : Fin 8) (n : Nat)
  | mkc4 (vd : Fin 8) (n : Nat)
  | mkomega (vd : Fin 8) (n : Nat)
  | dctk (vd vs : Fin 8)
  | idctk (vd vs : Fin 8)
  | dcto (vd vs : Fin 8)
  | idcto (vd vs : Fin 8)
  | vec2mat (vd vs : Fin 8)
  | mat2vec (vd vs : Fin 8)
  | dft (vd vs : Fin 8)
  | idft (vd vs : Fin 8)
  | dft8 (vd vs : Fin 8)
  | idft8 (vd vs : Fin 8)
  | center (vd vs : Fin 8) (d : Nat)
  | quant (vd vs : Fin 8)
  | dequant (vd vs : Fin 8)
  | recon (vd vs : Fin 8) (d : Nat)
  | qenc (vd vs : Fin 8) (d : Nat)
  | qdec (vd vs : Fin 8) (d : Nat)
  | mkmask (mk : Fin 4) (pol : Policy) (k : Nat)
  | applymask (vd vs : Fin 8) (mk : Fin 4)
deriving DecidableEq, Repr

end Sys2Proof
end

