-- ==== Sys2Proof/WellFormed.lean ====
section
/-! DEFINITION. When a command is one that a word can carry: each immediate fits its field (30_encoding.md R141). The
legal orders and depths are no part of this: an order or a depth that fits its field and is not legal is a command that
raises E_ORDER or E_DEPTH when it is executed (R144). -/

namespace Sys2Proof

/-- IMM5 holds 0 to 31 (30_encoding.md R141, R144). -/
def fitsImm5 (n : Nat) : Bool := decide (n < 32)

/-- K7 holds 0 to 127 (30_encoding.md R141, R146). -/
def fitsK7 (k : Nat) : Bool := decide (k < 128)

/-- Every immediate of the command fits its field. -/
def Instr.wellFormed : Instr → Bool
  | .nop => true
  | .mkc1 _ n => fitsImm5 n
  | .mkc2 _ n => fitsImm5 n
  | .mkc3 _ n => fitsImm5 n
  | .mkc4 _ n => fitsImm5 n
  | .mkomega _ n => fitsImm5 n
  | .dctk _ _ => true
  | .idctk _ _ => true
  | .dcto _ _ => true
  | .idcto _ _ => true
  | .vec2mat _ _ => true
  | .mat2vec _ _ => true
  | .dft _ _ => true
  | .idft _ _ => true
  | .dft8 _ _ => true
  | .idft8 _ _ => true
  | .center _ _ d => fitsImm5 d
  | .quant _ _ => true
  | .dequant _ _ => true
  | .recon _ _ d => fitsImm5 d
  | .qenc _ _ d => fitsImm5 d
  | .qdec _ _ d => fitsImm5 d
  | .mkmask _ _ k => fitsK7 k
  | .applymask _ _ _ => true

end Sys2Proof
end

