-- ==== Sys2Proof/Decode.lean ====
section
/-! DEFINITION. The decoder of 30_encoding.md R151, total on all 2^32 words and rejecting by name, and after it the
encoder, written from the same tables (R141, R142, R148). -/

namespace Sys2Proof

/-- Why a word is no command; each raises E_ILLEGAL (30_encoding.md R149, R150, R147). -/
inductive DecodeReject where
  /-- The opcode is not in the opcode map (R149). -/
  | reservedOpcode
  /-- A bit of the format's must-be-zero mask is set (R150). -/
  | nonzeroReserved
  /-- MKMASK with POL = 3 (R147). -/
  | reservedPolicy
deriving DecidableEq, Repr

/-- The formats of 30_encoding.md R142. -/
inductive Format where
  | n
  | b
  | u
  | d
  | mm
  | ma
deriving DecidableEq, Repr

/-- "must-be-zero mask of unused bits plus OP" (30_encoding.md R142). -/
def Format.mask : Format → Word
  | .n => 0xFFFFFFFF#32
  | .b => 0xFFE0F8FF#32
  | .u => 0xFFFFC0FF#32
  | .d => 0xFFE0C0FF#32
  | .mm => 0xC01F3FFF#32
  | .ma => 0xFFFF00FF#32

/-- OP, bits 7:0 (30_encoding.md R141). -/
def opField (w : Word) : BitVec 8 := w.extractLsb' 0 8

/-- VD, bits 10:8 (30_encoding.md R141, R143). -/
def vdField (w : Word) : Fin 8 := (w.extractLsb' 8 3).toFin

/-- VS, bits 13:11 (30_encoding.md R141, R143). -/
def vsField (w : Word) : Fin 8 := (w.extractLsb' 11 3).toFin

/-- MK, bits 15:14 (30_encoding.md R141, R143). -/
def mkField (w : Word) : Fin 4 := (w.extractLsb' 14 2).toFin

/-- IMM5, bits 20:16, unsigned (30_encoding.md R141, R144, R145). -/
def immField (w : Word) : Nat := (w.extractLsb' 16 5).toNat

/-- K7, bits 27:21, unsigned (30_encoding.md R141, R146). -/
def kField (w : Word) : Nat := (w.extractLsb' 21 7).toNat

/-- POL, bits 29:28 (30_encoding.md R141). -/
def polField (w : Word) : BitVec 2 := w.extractLsb' 28 2

/-- POL's values (30_encoding.md R147); 3 is reserved. -/
def policyOf (p : BitVec 2) : Option Policy :=
  match p.toNat with
  | 0 => some .lin
  | 1 => some .diag
  | 2 => some .quad
  | _ => none

/-- The opcode map's format column (30_encoding.md R148); none for a reserved opcode (R149). -/
def formatOf (op : BitVec 8) : Option Format :=
  match op.toNat with
  | 0x00 => some .n
  | 0x10 => some .b
  | 0x11 => some .b
  | 0x12 => some .b
  | 0x13 => some .b
  | 0x14 => some .b
  | 0x20 => some .u
  | 0x21 => some .u
  | 0x22 => some .u
  | 0x23 => some .u
  | 0x28 => some .u
  | 0x29 => some .u
  | 0x30 => some .u
  | 0x31 => some .u
  | 0x32 => some .u
  | 0x33 => some .u
  | 0x40 => some .d
  | 0x41 => some .u
  | 0x42 => some .u
  | 0x43 => some .d
  | 0x44 => some .d
  | 0x45 => some .d
  | 0x50 => some .mm
  | 0x51 => some .ma
  | _ => none

/-- "(mnemonic(op), fields of f)" of 30_encoding.md R151, once opcode and must-be-zero bits have been checked. -/
def commandOf (w : Word) : Except DecodeReject Instr :=
  match (opField w).toNat with
  | 0x00 => .ok .nop
  | 0x10 => .ok (.mkc1 (vdField w) (immField w))
  | 0x11 => .ok (.mkc2 (vdField w) (immField w))
  | 0x12 => .ok (.mkc3 (vdField w) (immField w))
  | 0x13 => .ok (.mkc4 (vdField w) (immField w))
  | 0x14 => .ok (.mkomega (vdField w) (immField w))
  | 0x20 => .ok (.dctk (vdField w) (vsField w))
  | 0x21 => .ok (.idctk (vdField w) (vsField w))
  | 0x22 => .ok (.dcto (vdField w) (vsField w))
  | 0x23 => .ok (.idcto (vdField w) (vsField w))
  | 0x28 => .ok (.vec2mat (vdField w) (vsField w))
  | 0x29 => .ok (.mat2vec (vdField w) (vsField w))
  | 0x30 => .ok (.dft (vdField w) (vsField w))
  | 0x31 => .ok (.idft (vdField w) (vsField w))
  | 0x32 => .ok (.dft8 (vdField w) (vsField w))
  | 0x33 => .ok (.idft8 (vdField w) (vsField w))
  | 0x40 => .ok (.center (vdField w) (vsField w) (immField w))
  | 0x41 => .ok (.quant (vdField w) (vsField w))
  | 0x42 => .ok (.dequant (vdField w) (vsField w))
  | 0x43 => .ok (.recon (vdField w) (vsField w) (immField w))
  | 0x44 => .ok (.qenc (vdField w) (vsField w) (immField w))
  | 0x45 => .ok (.qdec (vdField w) (vsField w) (immField w))
  | 0x50 =>
    match policyOf (polField w) with
    | some p => .ok (.mkmask (mkField w) p (kField w))
    | none => .error .reservedPolicy
  | 0x51 => .ok (.applymask (vdField w) (vsField w) (mkField w))
  | _ => .error .reservedOpcode

/-- 30_encoding.md R151: the opcode, then the must-be-zero bits, then POL. -/
def decode (w : Word) : Except DecodeReject Instr :=
  match formatOf (opField w) with
  | none => .error .reservedOpcode
  | some f =>
    if w &&& f.mask = (opField w).setWidth 32 then commandOf w
    else .error .nonzeroReserved

/-- The format of a command (30_encoding.md R148). -/
def Instr.format : Instr → Format
  | .nop => .n
  | .mkc1 _ _ => .b
  | .mkc2 _ _ => .b
  | .mkc3 _ _ => .b
  | .mkc4 _ _ => .b
  | .mkomega _ _ => .b
  | .dctk _ _ => .u
  | .idctk _ _ => .u
  | .dcto _ _ => .u
  | .idcto _ _ => .u
  | .vec2mat _ _ => .u
  | .mat2vec _ _ => .u
  | .dft _ _ => .u
  | .idft _ _ => .u
  | .dft8 _ _ => .u
  | .idft8 _ _ => .u
  | .center _ _ _ => .d
  | .quant _ _ => .u
  | .dequant _ _ => .u
  | .recon _ _ _ => .d
  | .qenc _ _ _ => .d
  | .qdec _ _ _ => .d
  | .mkmask _ _ _ => .mm
  | .applymask _ _ _ => .ma

/-- The opcode of a command (30_encoding.md R148). -/
def Instr.opcode : Instr → BitVec 8
  | .nop => 0x00
  | .mkc1 _ _ => 0x10
  | .mkc2 _ _ => 0x11
  | .mkc3 _ _ => 0x12
  | .mkc4 _ _ => 0x13
  | .mkomega _ _ => 0x14
  | .dctk _ _ => 0x20
  | .idctk _ _ => 0x21
  | .dcto _ _ => 0x22
  | .idcto _ _ => 0x23
  | .vec2mat _ _ => 0x28
  | .mat2vec _ _ => 0x29
  | .dft _ _ => 0x30
  | .idft _ _ => 0x31
  | .dft8 _ _ => 0x32
  | .idft8 _ _ => 0x33
  | .center _ _ _ => 0x40
  | .quant _ _ => 0x41
  | .dequant _ _ => 0x42
  | .recon _ _ _ => 0x43
  | .qenc _ _ _ => 0x44
  | .qdec _ _ _ => 0x45
  | .mkmask _ _ _ => 0x50
  | .applymask _ _ _ => 0x51

/-- POL's value for a policy (30_encoding.md R147). -/
def Policy.code : Policy → BitVec 2
  | .lin => 0
  | .diag => 1
  | .quad => 2

/-- The command word of the fields of 30_encoding.md R141, bits 31:30 zero. -/
def pack (pol : BitVec 2) (k imm : Nat) (mk : Fin 4) (vs vd : Fin 8) (op : BitVec 8) : Word :=
  0#2 ++ pol ++ BitVec.ofNat 7 k ++ BitVec.ofNat 5 imm ++ BitVec.ofNat 2 mk ++ BitVec.ofNat 3 vs ++ BitVec.ofNat 3 vd ++ op

/-- Format N (30_encoding.md R142). -/
def packN (op : BitVec 8) : Word := pack 0 0 0 0 0 0 op

/-- Format B (30_encoding.md R142). -/
def packB (vd : Fin 8) (n : Nat) (op : BitVec 8) : Word := pack 0 0 n 0 0 vd op

/-- Format U (30_encoding.md R142). -/
def packU (vd vs : Fin 8) (op : BitVec 8) : Word := pack 0 0 0 0 vs vd op

/-- Format D (30_encoding.md R142). -/
def packD (vd vs : Fin 8) (d : Nat) (op : BitVec 8) : Word := pack 0 0 d 0 vs vd op

/-- Format MM (30_encoding.md R142). -/
def packMM (mk : Fin 4) (pol : BitVec 2) (k : Nat) (op : BitVec 8) : Word := pack pol k 0 mk 0 0 op

/-- Format MA (30_encoding.md R142). -/
def packMA (vd vs : Fin 8) (mk : Fin 4) (op : BitVec 8) : Word := pack 0 0 0 mk vs vd op

/-- The command word of a well-formed command (30_encoding.md R141, R142, R148). -/
def encode (i : Instr) : Word :=
  match i with
  | .nop => packN i.opcode
  | .mkc1 vd n => packB vd n i.opcode
  | .mkc2 vd n => packB vd n i.opcode
  | .mkc3 vd n => packB vd n i.opcode
  | .mkc4 vd n => packB vd n i.opcode
  | .mkomega vd n => packB vd n i.opcode
  | .dctk vd vs => packU vd vs i.opcode
  | .idctk vd vs => packU vd vs i.opcode
  | .dcto vd vs => packU vd vs i.opcode
  | .idcto vd vs => packU vd vs i.opcode
  | .vec2mat vd vs => packU vd vs i.opcode
  | .mat2vec vd vs => packU vd vs i.opcode
  | .dft vd vs => packU vd vs i.opcode
  | .idft vd vs => packU vd vs i.opcode
  | .dft8 vd vs => packU vd vs i.opcode
  | .idft8 vd vs => packU vd vs i.opcode
  | .center vd vs d => packD vd vs d i.opcode
  | .quant vd vs => packU vd vs i.opcode
  | .dequant vd vs => packU vd vs i.opcode
  | .recon vd vs d => packD vd vs d i.opcode
  | .qenc vd vs d => packD vd vs d i.opcode
  | .qdec vd vs d => packD vd vs d i.opcode
  | .mkmask mk pol k => packMM mk pol.code k i.opcode
  | .applymask vd vs mk => packMA vd vs mk i.opcode

/-- The bits of an instruction as spec/opcode_table.json numbers them, given to the decoder: a command is one 32-bit
word (R140), so bits beyond nbits are zero and a number that needs more than 32 bits is no command. -/
def decodeTableWord (nbits w : Nat) : Option Instr :=
  if w % 2 ^ nbits < 2 ^ 32 then (decode (BitVec.ofNat 32 (w % 2 ^ nbits))).toOption else none

end Sys2Proof
end

