-- ==== Sys2Proof/Machine/Binary64.lean ====
section
/-! DEFINITION. IEEE 754 binary64 arithmetic on bit patterns (00_scope.md R14 to R19, R24, R25): add, sub, mul and div
correctly rounded to nearest, ties to even, with subnormals kept (R17), `rnd` and `clip`. Every finite value is a signed
number of units of 2^-1074, so each operation is computed exactly on integers and rounded once. A NaN that an operation
produces has free sign and payload (R18, log 5); its draw is keyed by the cell the operation works on. -/

namespace Sys2Proof.Machine

/-- What a binary64 pattern stands for. A finite value is `units * 2^-1074` with its sign; zero has a sign too. -/
inductive Fp where
  | nan
  | inf (neg : Bool)
  | fin (neg : Bool) (units : Nat)
deriving DecidableEq, Repr

/-- The number of units of 2^-1074 in 1. -/
def fpOne : Nat := 2 ^ 1074

/-- The layout of R14: sign bit 63, exponent bits 62:52, fraction bits 51:0. -/
def unpack (x : F64) : Fp :=
  let e := (x.extractLsb' 52 11).toNat
  let f := (x.extractLsb' 0 52).toNat
  if e = 2047 then (if f = 0 then .inf x.msb else .nan)
  else if e = 0 then .fin x.msb f
  else .fin x.msb ((2 ^ 52 + f) * 2 ^ (e - 1))

/-- The low 63 bits of an infinity. -/
def infMag : Nat := 2047 * 2 ^ 52

/-- A pattern from its sign and its low 63 bits. -/
def packMag (neg : Bool) (mag : Nat) : F64 := BitVec.ofBool neg ++ BitVec.ofNat 63 mag

/-- The integer nearest to n / d, a tie to the even one. -/
def roundHalfEven (n d : Nat) : Nat :=
  let q := n / d
  let r := n % d
  if 2 * r < d then q
  else if d < 2 * r then q + 1
  else if q % 2 = 0 then q
  else q + 1

/-- The integer nearest to n / d, a tie to the larger one (away from zero, on magnitudes). -/
def roundHalfAway (n d : Nat) : Nat :=
  if d ≤ 2 * (n % d) then n / d + 1 else n / d

/-- The low 63 bits of the binary64 value nearest to n / d units, ties to even; a magnitude past the largest finite value
becomes an infinity. Patterns grow with the values they stand for, so a carry out of the fraction is one into the
exponent. -/
def roundMag (n d : Nat) : Nat :=
  let s := Nat.log2 (n / d) - 52
  min (s * 2 ^ 52 + roundHalfEven n (d * 2 ^ s)) infMag

/-- A NaN with free sign and payload (R18): the payload is not zero, as it would be an infinity. -/
def freshNaN (op : FpOp) (cell : Nat) (a b : F64) : F64 :=
  let r := Config.nanBits op cell a b
  let payload := r.extractLsb' 0 52
  BitVec.ofBool r.msb ++ 0x7FF#11 ++ (if payload = 0#52 then 1#52 else payload)

/-- The integer number of units. -/
def signed (neg : Bool) (m : Nat) : Int := if neg then -(m : Int) else m

/-- The exact sum, rounded; an exact zero sum is -0.0 when both operands are negative and +0.0 otherwise (R19). -/
def addFinite (p : Bool) (m : Nat) (q : Bool) (n : Nat) : F64 :=
  let z := signed p m + signed q n
  if z = 0 then packMag (p && q) 0 else packMag (decide (z < 0)) (roundMag z.natAbs 1)

/-- IEEE 754 addition on unpacked operands; `nan` is the NaN to deliver where the result is one. -/
def addCore (nan : F64) (x y : Fp) : F64 :=
  match x, y with
  | .nan, _ => nan
  | _, .nan => nan
  | .inf p, .inf q => if p = q then packMag p infMag else nan
  | .inf p, .fin _ _ => packMag p infMag
  | .fin _ _, .inf q => packMag q infMag
  | .fin p m, .fin q n => addFinite p m q n

/-- The operand with its sign flipped. -/
def Fp.negate : Fp → Fp
  | .nan => .nan
  | .inf p => .inf (!p)
  | .fin p m => .fin (!p) m

/-- IEEE 754 multiplication on unpacked operands. -/
def mulCore (nan : F64) (x y : Fp) : F64 :=
  match x, y with
  | .nan, _ => nan
  | _, .nan => nan
  | .inf p, .inf q => packMag (p != q) infMag
  | .inf p, .fin q n => if n = 0 then nan else packMag (p != q) infMag
  | .fin p m, .inf q => if m = 0 then nan else packMag (p != q) infMag
  | .fin p m, .fin q n => packMag (p != q) (roundMag (m * n) fpOne)

/-- IEEE 754 division on unpacked operands. -/
def divCore (nan : F64) (x y : Fp) : F64 :=
  match x, y with
  | .nan, _ => nan
  | _, .nan => nan
  | .inf _, .inf _ => nan
  | .inf p, .fin q _ => packMag (p != q) infMag
  | .fin p _, .inf q => packMag (p != q) 0
  | .fin p m, .fin q n =>
    if n = 0 then (if m = 0 then nan else packMag (p != q) infMag)
    else packMag (p != q) (roundMag (m * fpOne) n)

/-- `add(a, b)` (R16) at a cell. -/
def fpAdd (cell : Nat) (a b : F64) : F64 := addCore (freshNaN .add cell a b) (unpack a) (unpack b)

/-- `sub(a, b)` (R16) at a cell: the sum of a and b with its sign flipped. -/
def fpSub (cell : Nat) (a b : F64) : F64 := addCore (freshNaN .sub cell a b) (unpack a) (unpack b).negate

/-- `mul(a, b)` (R16) at a cell. -/
def fpMul (cell : Nat) (a b : F64) : F64 := mulCore (freshNaN .mul cell a b) (unpack a) (unpack b)

/-- `div(a, b)` (R16) at a cell. -/
def fpDiv (cell : Nat) (a b : F64) : F64 := divCore (freshNaN .div cell a b) (unpack a) (unpack b)

/-- The nearest integer to n / d under a tie rule (R24). -/
def roundTies (ties : RoundTies) (n d : Nat) : Nat :=
  match ties with
  | .even => roundHalfEven n d
  | .away => roundHalfAway n d

/-- `rnd(x)` (R24): the nearest integer under `ROUND_TIES`, with the sign of x also when it is zero (R19). -/
def fpRnd (ties : RoundTies) (cell : Nat) (x : F64) : F64 :=
  match unpack x with
  | .nan => freshNaN .rnd cell x 0#64
  | .inf p => packMag p infMag
  | .fin p m => packMag p (roundMag (roundTies ties m fpOne * fpOne) 1)

/-- x < y; no comparison with a NaN holds and the zeros are equal. -/
def Fp.lt : Fp → Fp → Bool
  | .nan, _ => false
  | _, .nan => false
  | .inf p, .inf q => p && !q
  | .inf p, .fin _ _ => p
  | .fin _ _, .inf q => !q
  | .fin p m, .fin q n => decide (signed p m < signed q n)

/-- x < y on patterns. -/
def fpLt (x y : F64) : Bool := (unpack x).lt (unpack y)

/-- `clip(x, lo, hi)` (R25). -/
def fpClip (x lo hi : F64) : F64 :=
  if fpLt x lo then lo else if fpLt hi x then hi else x

/-- The binary64 value of a natural number (exact up to 2^53, R15, R22). -/
def fpOfNat (n : Nat) : F64 := packMag false (roundMag (n * fpOne) 1)

/-- +0.0 or -0.0. -/
def fpIsZero (x : F64) : Bool := decide (x &&& 0x7FFFFFFFFFFFFFFF#64 = 0#64)

/-- The sign bit alone: the zero of the same sign. -/
def fpSignOnly (x : F64) : F64 := x &&& 0x8000000000000000#64

/-- The sign bit flipped (R31). -/
def fpFlipSign (x : F64) : F64 := x ^^^ 0x8000000000000000#64

/-- Neither an infinity nor a NaN. -/
def fpFinite (x : F64) : Bool :=
  match unpack x with
  | .fin _ _ => true
  | _ => false

/-- The rational number a finite pattern stands for; 0 for the others. For statements only. -/
def fpRat (x : F64) : Rat :=
  match unpack x with
  | .fin p m => (signed p m : Rat) / fpOne
  | _ => 0

/-- The pattern is a NaN. -/
def fpIsNaN (x : F64) : Bool := decide (unpack x = .nan)

end Sys2Proof.Machine
end

