-- ==== Sys2Proof/Machine/Numerics.lean ====
section
/-! DEFINITION. Matrices as lists of elements in raster order (00_scope.md R10), the exact transposes (R31), the NUM
record with property P-ZERO built in (R27, R28, R30), and the default quantization table (10_state.md R58). -/

namespace Sys2Proof.Machine

/-- +0.0. -/
def fpZero : F64 := 0#64

/-- A REAL element read as a complex one (00_scope.md R20). -/
def toComplex (x : F64) : C64 := ⟨x, fpZero⟩

/-- Conjugation flips the sign bit of the imaginary part (00_scope.md R31). -/
def conj (z : C64) : C64 := ⟨z.re, fpFlipSign z.im⟩

/-- The transpose of an n×n matrix: it moves elements and computes nothing (00_scope.md R31). -/
def transpose {α : Type} [Inhabited α] (n : Nat) (xs : List α) : List α :=
  (List.range (n * n)).map fun i => xs.getD (i % n * n + i / n) default

/-- The conjugate transpose of an n×n matrix (00_scope.md R31). -/
def conjTranspose (n : Nat) (zs : List C64) : List C64 := (transpose n zs).map conj

/-- Either zero in both parts. -/
def complexIsZero (z : C64) : Bool := fpIsZero z.re && fpIsZero z.im

/-- The zeros with the signs of the two parts. -/
def complexSignOnly (z : C64) : C64 := ⟨fpSignOnly z.re, fpSignOnly z.im⟩

/-- Number of rows of a basis of order n: n + 1 for DCT-I and n for the others (41_basis.md R192, R193, R197). -/
def basisSide (t : BasisFamily) (n : Nat) : Nat :=
  match t with
  | .dctI => n + 1
  | .dctII => n
  | .dctIV => n

/-- `NUM.cosb(t, n)` (00_scope.md R27). -/
def numCosb (t : BasisFamily) (n : Nat) : List F64 :=
  (List.range (basisSide t n * basisSide t n)).map (Config.numCosb t n)

/-- `NUM.omega(n)` (00_scope.md R27). -/
def numOmega (n : Nat) : List C64 := (List.range (n * n)).map (Config.numOmega n)

/-- `NUM.inv(A)` of an n×n matrix (00_scope.md R27). -/
def numInv (n : Nat) (a : List F64) : List F64 := (List.range (n * n)).map (Config.numInv n a)

/-- P-ZERO (00_scope.md R30): an all-zero operand gives zeros, of free sign; nothing else is known of the result. -/
def zeroToZero (operand result : List F64) : List F64 :=
  if operand.all fpIsZero then result.map fpSignOnly else result

/-- P-ZERO for complex matrices (00_scope.md R30). -/
def complexZeroToZero (operand result : List C64) : List C64 :=
  if operand.all complexIsZero then result.map complexSignOnly else result

/-- `NUM.kron(B, M)` on 8×8 matrices (00_scope.md R27, R30). -/
def numKron (b m : List F64) : List F64 := zeroToZero m ((List.range 64).map (Config.numKron b m))

/-- `NUM.rsim(L, M, R)` on 8×8 matrices (00_scope.md R27, R30). -/
def numRsim (l m r : List F64) : List F64 := zeroToZero m ((List.range 64).map (Config.numRsim l m r))

/-- `NUM.csim(L, M, R)` on n×n matrices (00_scope.md R27, R30). -/
def numCsim (n : Nat) (l m r : List C64) : List C64 :=
  complexZeroToZero m ((List.range (n * n)).map (Config.numCsim l m r))

/-- The default `QTAB` in raster order: ITU-T T.81 Table K.1 (10_state.md R58). -/
def qtabDefaultNat : List Nat :=
  [16, 11, 10, 16, 24, 40, 51, 61] ++
  [12, 12, 14, 19, 26, 58, 60, 55] ++
  [14, 13, 16, 24, 40, 57, 69, 56] ++
  [14, 17, 22, 29, 51, 87, 80, 62] ++
  [18, 22, 37, 56, 68, 109, 103, 77] ++
  [24, 35, 55, 64, 81, 104, 113, 92] ++
  [49, 64, 78, 87, 103, 121, 120, 101] ++
  [72, 92, 95, 98, 112, 100, 103, 99]

/-- "stored as binary64 values" (10_state.md R57). -/
def qtabDefault : List F64 := qtabDefaultNat.map fpOfNat

/-- C8_II (10_state.md R54). -/
def c8IIValue : List F64 := numCosb .dctII 8

/-- C8_III (10_state.md R55). -/
def c8IIIValue : List F64 := numInv 8 c8IIValue

/-- Ω8 (10_state.md R56). -/
def omega8Value : List C64 := numOmega 8

/-- Ω8ᴴ (10_state.md R56). -/
def omega8HValue : List C64 := conjTranspose 8 omega8Value

end Sys2Proof.Machine
end

