-- ==== Sys2Proof/Machine/State.lean ====
section
/-! DEFINITION. The state of the engine (10_state.md R42, R59 to R81) and, beside it, the outside world's events as plain
data: the host's accesses still to come and the bus's answers (log 1). -/

namespace Sys2Proof.Machine

/-- The command error codes of 60_exceptions.md R300; E_NONE is "no error recorded". -/
inductive ErrCode where
  /-- E_ILLEGAL: the word is not a command. -/
  | illegal
  /-- E_SHAPE: an operand has the wrong shape. -/
  | shape
  /-- E_LENGTH: a vector's length is not a perfect square. -/
  | length
  /-- E_DEPTH: the depth field is not 8 or 16. -/
  | depth
  /-- E_UNINIT: a source matrix register or mask register is not valid. -/
  | uninit
  /-- E_TYPE: a CPLX operand where REAL is required. -/
  | type
  /-- E_ORDER: a basis order outside 00_scope.md R8. -/
  | order
deriving DecidableEq, Repr

/-- What STATUS.ERRCODE and ERRCMD hold while STATUS.ERR = 1: the first error and its command word (10_state.md R67, R68:
both are written together and both are 0 when ERR = 0). -/
structure ErrRecord where
  code : ErrCode
  cmd : Word
deriving DecidableEq, Repr

/-- The elements of a matrix register in raster order, by kind (10_state.md R45, R47: a REAL register stores only the
real part). -/
inductive Elems where
  | real (xs : List F64)
  | cplx (zs : List C64)
deriving DecidableEq, Repr

/-- The value of a valid matrix register: shape, kind and elements (10_state.md R44, R45). -/
structure Matrix where
  rows : Nat
  cols : Nat
  elems : Elems
deriving DecidableEq, Repr

/-- The constant store (10_state.md R53): read-only to commands and to the host. -/
structure ConstStore where
  c8II : List F64
  c8III : List F64
  omega8 : List C64
  omega8H : List C64
  qtab : List F64
deriving DecidableEq, Repr

/-- PEND when it is set (10_state.md R59): the command word. `wait` is the model's own (log 2): how many un-held host
events still get ahead of the engine's step. -/
structure Pending where
  word : Word
  wait : Nat
deriving DecidableEq, Repr

/-- What an access of the host does (20_memory.md R104). -/
inductive AccessOp where
  | read
  | write (v : Word)
deriving DecidableEq, Repr

/-- One host access: address bits 7:0 (20_memory.md R101), the width in bits (R102, R103) and the operation. -/
structure Access where
  off : BitVec 8
  width : Nat
  op : AccessOp
deriving DecidableEq, Repr

/-- An event of the outside world. -/
inductive HostEvent where
  /-- The host's next access (20_memory.md R104). -/
  | access (a : Access)
  /-- The platform asserts the reset input (70_reset_and_hazards.md R340). -/
  | hardReset
deriving DecidableEq, Repr

/-- What the bus answers to an access that took effect. -/
inductive Answer where
  /-- The value of a read (20_memory.md R104). -/
  | data (w : Word)
  /-- A write has taken effect. -/
  | ack
  /-- A bus error response: no data (20_memory.md R103). -/
  | busError
deriving DecidableEq, Repr

/-- The machine. -/
structure State where
  /-- V0..V7 (R43 to R47); none is valid = 0, the spec's own "holds no value" (R46). -/
  v : Vector (Option Matrix) 8
  /-- MK0..MK3 (R50, R51); none is valid = 0. -/
  masks : Vector (Option (BitVec 64)) 4
  /-- The constant store (R53). -/
  rom : ConstStore
  /-- The build parameter ROUND_TIES (00_scope.md R24, log 6). -/
  ties : RoundTies
  /-- PEND (R59); STATUS.BUSY is "PEND is set" (R62). -/
  pend : Option Pending
  /-- LASTCMD (R59). -/
  lastcmd : Word
  /-- WLO_RE (R59). -/
  wloRe : Word
  /-- WLO_IM (R59). -/
  wloIm : Word
  /-- RHI_RE (R59). -/
  rhiRe : Word
  /-- RHI_IM (R59). -/
  rhiIm : Word
  /-- STATUS.DONE (R63). -/
  done : Bool
  /-- STATUS.ERR, STATUS.ERRCODE and ERRCMD (R64, R67, R68). -/
  err : Option ErrRecord
  /-- STATUS.MERR (R65). -/
  merr : Bool
  /-- STATUS.HERR (R66). -/
  herr : Bool
  /-- CTRL.IRQ_EN (R69). -/
  irqEn : Bool
  /-- DSEL.VSEL (R73). -/
  vsel : Fin 8
  /-- DIDX.IDX (R75). -/
  idx : BitVec 16
  /-- The model's own (log 1): events still to come, oldest first. -/
  script : List HostEvent
  /-- The model's own (log 1): the bus's answers, newest first. -/
  answers : List Answer
  /-- The model's own (log 2): commands issued so far, the draw of the free latency. -/
  issued : Nat
deriving DecidableEq, Repr

/-- Faults of the machine. There is none: a command error is recorded and the engine goes on (60_exceptions.md R305), and
a refused host access is answered by a bus error and sets HERR (20_memory.md R103, log 7). So nothing raises a fault. -/
inductive Fault
deriving DecidableEq, Repr

/-- Refusals of the model. -/
inductive Refusal where
  /-- Raised by an arm of exec whose instruction has no meaning yet; none is left, so nothing raises it. Safe: the model
  stops where the hardware goes on. -/
  | notModelled (mnemonic : String)
deriving DecidableEq, Repr

/-- The constant store of a build at the end of reset (10_state.md R53 to R58, 70_reset_and_hazards.md R340). -/
def ConstStore.ofBuild (qtab : List F64) : ConstStore where
  c8II := c8IIValue
  c8III := c8IIIValue
  omega8 := omega8Value
  omega8H := omega8HValue
  qtab := qtab

/-- The machine of a build right after reset (10_state.md R81, "after reset"), with no event of the outside world to
come. -/
def State.resetOf (qtab : List F64) (ties : RoundTies) : State where
  v := Vector.replicate 8 none
  masks := Vector.replicate 4 none
  rom := ConstStore.ofBuild qtab
  ties := ties
  pend := none
  lastcmd := 0#32
  wloRe := 0#32
  wloIm := 0#32
  rhiRe := 0#32
  rhiIm := 0#32
  done := false
  err := none
  merr := false
  herr := false
  irqEn := false
  vsel := 0
  idx := 0#16
  script := []
  answers := []
  issued := 0

/-- The machine of the default build right after reset: `QTAB` of 10_state.md R58 and `ROUND_TIES = EVEN`
(00_scope.md R7). -/
def State.reset : State := State.resetOf qtabDefault .even

end Sys2Proof.Machine
end

