-- ==== Sys2Proof/Machine/Operands.lean ====
section
/-! DEFINITION. Reading and checking the operands of a command. Each check either gives what it read or the error it
raises (60_exceptions.md R301), and every operand form runs its checks in the order of R303: E_UNINIT (VS before MK),
E_TYPE, E_DEPTH, E_ORDER, E_SHAPE, E_LENGTH. -/

namespace Sys2Proof.Machine

/-- A valid 8×8 REAL matrix, the result of the DCT, quantization and masking commands. -/
def realBlock (xs : List F64) : Matrix := ⟨8, 8, .real xs⟩

/-- A square REAL matrix of n rows. -/
def realSquare (n : Nat) (xs : List F64) : Matrix := ⟨n, n, .real xs⟩

/-- A square CPLX matrix of n rows. -/
def cplxSquare (n : Nat) (zs : List C64) : Matrix := ⟨n, n, .cplx zs⟩

/-- The number of elements of a register (10_state.md R44). -/
def Elems.length : Elems → Nat
  | .real xs => xs.length
  | .cplx zs => zs.length

/-- "Each valid matrix register has a shape" (10_state.md R44): 1 ≤ rows, 1 ≤ cols, rows × cols ≤ CAP, and it holds
rows × cols elements. -/
abbrev Matrix.wf (m : Matrix) : Prop :=
  1 ≤ m.rows ∧ 1 ≤ m.cols ∧ m.rows * m.cols ≤ Config.cap ∧ m.elems.length = m.rows * m.cols

/-- The elements as complex ones: a REAL operand is read as (x, +0.0) (00_scope.md R20, 10_state.md R47). -/
def Elems.toComplex : Elems → List C64
  | .real xs => xs.map Machine.toComplex
  | .cplx zs => zs

/-- A source matrix register: E_UNINIT when it is not valid (10_state.md R46). -/
def State.readV (s : State) (r : Fin 8) : Except ErrCode Matrix :=
  match s.v[r] with
  | some m => .ok m
  | none => .error .uninit

/-- A source mask register: E_UNINIT when it is not valid (10_state.md R51). -/
def State.readMask (s : State) (j : Fin 4) : Except ErrCode (BitVec 64) :=
  match s.masks[j] with
  | some w => .ok w
  | none => .error .uninit

/-- The elements of a REAL operand: E_TYPE when it is CPLX (60_exceptions.md R300). -/
def Matrix.needReal (m : Matrix) : Except ErrCode (List F64) :=
  match m.elems with
  | .real xs => .ok xs
  | .cplx _ => .error .type

/-- E_SHAPE unless 8×8. -/
def Matrix.needBlock (m : Matrix) : Except ErrCode Unit :=
  if m.rows = 8 ∧ m.cols = 8 then .ok () else .error .shape

/-- E_SHAPE unless square; the order. -/
def Matrix.needSquare (m : Matrix) : Except ErrCode Nat :=
  if m.rows = m.cols then .ok m.rows else .error .shape

/-- E_SHAPE unless a vector, a register with one row or one column (10_state.md R44); the length. -/
def Matrix.needVector (m : Matrix) : Except ErrCode Nat :=
  if m.rows = 1 ∨ m.cols = 1 then .ok (m.rows * m.cols) else .error .shape

/-- E_LENGTH unless there is an integer n ≥ 1 with n * n = len; that integer (42_dct.md R217). -/
def needPerfectSquare (len : Nat) : Except ErrCode Nat :=
  match (List.range (len + 1)).find? (fun n => decide (1 ≤ n ∧ n * n = len)) with
  | some n => .ok n
  | none => .error .length

/-- E_DEPTH unless the depth is 8 or 16 (44_quant.md R250). -/
def needDepth (d : Nat) : Except ErrCode Unit :=
  if d ∈ Config.depths then .ok () else .error .depth

/-- E_ORDER unless 1 ≤ n ≤ the largest order (41_basis.md R190). -/
def needOrder (largest n : Nat) : Except ErrCode Unit :=
  if 1 ≤ n ∧ n ≤ largest then .ok () else .error .order

/-- The largest order of MKC1, whose matrix has n + 1 rows (00_scope.md R8). -/
def orderMaxI : Nat := Config.dMax - 1

/-- The largest order of the other basis commands (00_scope.md R8). -/
def orderMax : Nat := Config.dMax

/-- `dct_checks` (42_dct.md R210) and `quant_checks` without a depth (44_quant.md R250): an 8×8 REAL operand. -/
def State.blockOperand (s : State) (vs : Fin 8) : Except ErrCode (List F64) := do
  let m ← s.readV vs
  let xs ← m.needReal
  m.needBlock
  return xs

/-- `quant_checks` with a depth (44_quant.md R250). -/
def State.depthOperand (s : State) (vs : Fin 8) (d : Nat) : Except ErrCode (List F64) := do
  let m ← s.readV vs
  let xs ← m.needReal
  needDepth d
  m.needBlock
  return xs

/-- The checks of APPLYMASK (45_mask.md R283): VS before MK. -/
def State.maskOperand (s : State) (vs : Fin 8) (j : Fin 4) : Except ErrCode (List F64 × BitVec 64) := do
  let m ← s.readV vs
  let w ← s.readMask j
  let xs ← m.needReal
  m.needBlock
  return (xs, w)

/-- `dft_checks` (43_dft.md R230): the order and the elements as complex ones. -/
def State.squareOperand (s : State) (vs : Fin 8) : Except ErrCode (Nat × List C64) := do
  let m ← s.readV vs
  let n ← m.needSquare
  return (n, m.elems.toComplex)

/-- The checks of DFT8 and IDFT8 (43_dft.md R233, R234). -/
def State.dft8Operand (s : State) (vs : Fin 8) : Except ErrCode (List C64) := do
  let m ← s.readV vs
  m.needBlock
  return m.elems.toComplex

end Sys2Proof.Machine
end

