-- ==== Sys2Proof/Machine/Flags.lean ====
section
/-! DEFINITION. The status bits: what sets and clears them (10_state.md R61 to R68, 60_exceptions.md R302), the words of
STATUS, ERRCMD, CTRL and CONFIG, and the interrupt output (60_exceptions.md R310). -/

namespace Sys2Proof.Machine

/-- The numbers of the error codes (60_exceptions.md R300). -/
def ErrCode.code : ErrCode → BitVec 8
  | .illegal => 1
  | .shape => 2
  | .length => 3
  | .depth => 4
  | .uninit => 5
  | .type => 6
  | .order => 7

/-- STATUS.BUSY is 1 exactly when PEND is set (10_state.md R62). -/
def State.busy (s : State) : Bool := s.pend.isSome

/-- STATUS.ERRCODE, 0 (E_NONE) when ERR = 0 (10_state.md R67). -/
def State.errcode (s : State) : BitVec 8 :=
  match s.err with
  | some r => r.code.code
  | none => 0#8

/-- ERRCMD, 0 when ERR = 0 (10_state.md R68). -/
def State.errcmd (s : State) : Word :=
  match s.err with
  | some r => r.cmd
  | none => 0#32

/-- The STATUS word (10_state.md R61). -/
def State.statusWord (s : State) : Word :=
  0#16 ++ s.errcode ++ 0#3 ++ BitVec.ofBool s.herr ++ BitVec.ofBool s.merr ++ BitVec.ofBool s.err.isSome ++
    BitVec.ofBool s.done ++ BitVec.ofBool s.busy

/-- The CTRL word as read: CLR and SRST read 0 (10_state.md R69). -/
def State.ctrlWord (s : State) : Word := 0#31 ++ BitVec.ofBool s.irqEn

/-- IDENT (10_state.md R71). -/
def identWord : Word := 0x44435407#32

/-- CONFIG.TIES (10_state.md R70). -/
def tiesBit : RoundTies → Bool
  | .even => false
  | .away => true

/-- The CONFIG word (10_state.md R70). -/
def State.configWord (s : State) : Word :=
  0#14 ++ BitVec.ofBool (decide (s.rom.qtab = qtabDefault)) ++ BitVec.ofBool (tiesBit s.ties) ++
    BitVec.ofNat 4 Config.nk ++ BitVec.ofNat 4 Config.nv ++ BitVec.ofNat 8 Config.dMax

/-- The interrupt output, a level: IRQ_EN and DONE (60_exceptions.md R310). -/
def State.irq (s : State) : Bool := s.irqEn && s.done

/-- A host access error sets the sticky HERR and no other bit (10_state.md R66, 20_memory.md R117). -/
def State.setHerr (s : State) : State := { s with herr := true }

/-- `record(e, w)` (60_exceptions.md R302): the first error keeps its code and word, a later one sets MERR only. -/
def State.record (s : State) (e : ErrCode) (w : Word) : State :=
  match s.err with
  | none => { s with err := some ⟨e, w⟩ }
  | some _ => { s with merr := true }

/-- Completion (40_control.md R173): PEND and so BUSY are cleared and DONE is set. -/
def State.complete (s : State) : State := { s with pend := none, done := true }

end Sys2Proof.Machine
end

