-- ==== Sys2Proof/Machine/Ops.lean ====
section
/-! DEFINITION. The named operations over the registers: committing a result, raising a command error (this machine's
one kind of exception, 60_exceptions.md R301, R302) and the host's acknowledge of it (R311), issuing a command
(40_control.md R170), and the two resets (70_reset_and_hazards.md R340, R341). -/

namespace Sys2Proof.Machine

/-- `V[i] <- m`: the whole register at once (10_state.md R48). -/
def State.writeV (s : State) (r : Fin 8) (m : Matrix) : State := { s with v := s.v.set r (some m) }

/-- `MK[j] <- w` (10_state.md R52). -/
def State.writeMask (s : State) (j : Fin 4) (w : BitVec 64) : State := { s with masks := s.masks.set j (some w) }

/-- The word of the command being executed: PEND's. No step runs a command while PEND is clear; there it is LASTCMD, the
last word issued (log 9). -/
def State.commandWord (s : State) : Word :=
  match s.pend with
  | some p => p.word
  | none => s.lastcmd

/-- `raise E_x` (60_exceptions.md R301): the error is recorded with the command word (R302) and the command completes;
no register and no mask is written. There is no trap entry, no saved pc and no vector (R305). -/
def State.raise (s : State) (e : ErrCode) : State := (s.record e s.commandWord).complete

/-- The return from an error: the host's acknowledge, CTRL.CLR (60_exceptions.md R311, 10_state.md R69). It clears DONE,
ERR, MERR, HERR, ERRCODE and ERRCMD. -/
def State.acknowledge (s : State) : State := { s with done := false, err := none, merr := false, herr := false }

/-- The end of a command with a matrix result (40_control.md R171): the commit and the completion, or the error. -/
def State.finish (s : State) (vd : Fin 8) (r : Except ErrCode Matrix) : Host.Outcome State Fault Refusal :=
  match r with
  | .ok m => .next (s.writeV vd m).complete
  | .error e => .next (s.raise e)

/-- The end of a command with a mask result (45_mask.md R282). -/
def State.finishMask (s : State) (j : Fin 4) (w : BitVec 64) : Host.Outcome State Fault Refusal :=
  .next (s.writeMask j w).complete

/-- Issue (40_control.md R170, 10_state.md R72): PEND, LASTCMD, BUSY and DONE; the word is not decoded. `wait` is how many
un-held host events get ahead of the engine (log 2). -/
def State.issue (s : State) (w : Word) (wait : Nat) : State :=
  { s with pend := some ⟨w, wait⟩, lastcmd := w, done := false }

/-- Issue with the latency the machine draws for this command (00_scope.md R7, log 2). -/
def State.issueDrawn (s : State) (w : Word) : State :=
  { s.issue w (Config.latency s.issued) with issued := s.issued + 1 }

/-- Hard reset (70_reset_and_hazards.md R340): every piece of engine state takes its reset value and the constant store
its defining values. The build, the outside world's events and answers and the latency draw are not engine state
(log 12). -/
def State.hardReset (s : State) : State :=
  { State.resetOf s.rom.qtab s.ties with script := s.script, answers := s.answers, issued := s.issued }

/-- Soft reset (70_reset_and_hazards.md R341): as hard reset, but the constant store is not rebuilt. -/
def State.softReset (s : State) : State := { s.hardReset with rom := s.rom }

end Sys2Proof.Machine
end

