-- ==== Sys2Proof/Machine/Basis.lean ====
section
/-! DEFINITION. The basis matrix commands (41_basis.md): MKC1, MKC2, MKC3, MKC4, MKOMEGA. -/

namespace Sys2Proof.Machine

/-- MKC1 (41_basis.md R192): the DCT-I basis of order n, (n+1)×(n+1) REAL. -/
def execMkc1 (vd : Fin 8) (n : Nat) (s : State) : Host.Outcome State Fault Refusal :=
  s.finish vd (do
    needOrder orderMaxI n
    return realSquare (n + 1) (numCosb .dctI n))

/-- MKC2 (41_basis.md R193): the DCT-II basis of order n, n×n REAL. -/
def execMkc2 (vd : Fin 8) (n : Nat) (s : State) : Host.Outcome State Fault Refusal :=
  s.finish vd (do
    needOrder orderMax n
    return realSquare n (numCosb .dctII n))

/-- MKC3 (41_basis.md R195): the inverse of the delivered DCT-II basis of order n. -/
def execMkc3 (vd : Fin 8) (n : Nat) (s : State) : Host.Outcome State Fault Refusal :=
  s.finish vd (do
    needOrder orderMax n
    return realSquare n (numInv n (numCosb .dctII n)))

/-- MKC4 (41_basis.md R197): the DCT-IV basis of order n, n×n REAL. -/
def execMkc4 (vd : Fin 8) (n : Nat) (s : State) : Host.Outcome State Fault Refusal :=
  s.finish vd (do
    needOrder orderMax n
    return realSquare n (numCosb .dctIV n))

/-- MKOMEGA (41_basis.md R199): the Fourier basis of order n, n×n CPLX. -/
def execMkomega (vd : Fin 8) (n : Nat) (s : State) : Host.Outcome State Fault Refusal :=
  s.finish vd (do
    needOrder orderMax n
    return cplxSquare n (numOmega n))

end Sys2Proof.Machine
end

