-- ==== Sys2Proof/Machine/Control.lean ====
section
/-! DEFINITION. NOP (40_control.md R177). -/

namespace Sys2Proof.Machine

/-- NOP: complete, and nothing else (40_control.md R177). -/
def execNop (s : State) : Host.Outcome State Fault Refusal := .next s.complete

end Sys2Proof.Machine
end

