-- ==== Sys2Proof/Machine/Dct.lean ====
section
/-! DEFINITION. The 8×8 DCT-II/III transforms and the reshaping helpers (42_dct.md): DCTK, IDCTK, DCTO, IDCTO, VEC2MAT,
MAT2VEC. -/

namespace Sys2Proof.Machine

/-- `NUM.rsim(C8_II, M, transpose(C8_II))`, the forward similarity form (42_dct.md R213, R214). -/
def forwardDct (rom : ConstStore) (xs : List F64) : List F64 := numRsim rom.c8II xs (transpose 8 rom.c8II)

/-- `NUM.rsim(C8_III, X, transpose(C8_III))`, the inverse similarity form (42_dct.md R213, R215). -/
def inverseDct (rom : ConstStore) (xs : List F64) : List F64 := numRsim rom.c8III xs (transpose 8 rom.c8III)

/-- DCTK (42_dct.md R211): forward DCT-II, Kronecker form. -/
def execDctk (vd vs : Fin 8) (s : State) : Host.Outcome State Fault Refusal :=
  s.finish vd (do
    let xs ← s.blockOperand vs
    return realBlock (numKron s.rom.c8II xs))

/-- IDCTK (42_dct.md R212): inverse DCT, Kronecker form. -/
def execIdctk (vd vs : Fin 8) (s : State) : Host.Outcome State Fault Refusal :=
  s.finish vd (do
    let xs ← s.blockOperand vs
    return realBlock (numKron s.rom.c8III xs))

/-- DCTO (42_dct.md R214): forward DCT-II, similarity form. -/
def execDcto (vd vs : Fin 8) (s : State) : Host.Outcome State Fault Refusal :=
  s.finish vd (do
    let xs ← s.blockOperand vs
    return realBlock (forwardDct s.rom xs))

/-- IDCTO (42_dct.md R215): inverse DCT, similarity form. -/
def execIdcto (vd vs : Fin 8) (s : State) : Host.Outcome State Fault Refusal :=
  s.finish vd (do
    let xs ← s.blockOperand vs
    return realBlock (inverseDct s.rom xs))

/-- VEC2MAT (42_dct.md R217): a vector of length n² as an n×n matrix. The elements stay at their raster indices, bit for
bit, and the kind is kept (R216). -/
def execVec2mat (vd vs : Fin 8) (s : State) : Host.Outcome State Fault Refusal :=
  s.finish vd (do
    let m ← s.readV vs
    let len ← m.needVector
    let n ← needPerfectSquare len
    return { m with rows := n, cols := n })

/-- MAT2VEC (42_dct.md R218): a square matrix as a row vector, bit for bit, the kind kept (R216). -/
def execMat2vec (vd vs : Fin 8) (s : State) : Host.Outcome State Fault Refusal :=
  s.finish vd (do
    let m ← s.readV vs
    let n ← m.needSquare
    return { m with rows := 1, cols := n * n })

end Sys2Proof.Machine
end

