-- ==== Sys2Proof/Machine/Dft.lean ====
section
/-! DEFINITION. The DFT transform core (43_dft.md): DFT, IDFT, DFT8, IDFT8. Every result is CPLX (R230). -/

namespace Sys2Proof.Machine

/-- Each part divided by a real divisor (43_dft.md R231): `div` of 00_scope.md R16 on both parts. The NaN draws of the
element at raster index i are 2i and 2i + 1 (log 5). -/
def scaleParts (zs : List C64) (divisor : F64) : List C64 :=
  zs.mapIdx fun i z => ⟨fpDiv (2 * i) z.re divisor, fpDiv (2 * i + 1) z.im divisor⟩

/-- DFT (43_dft.md R231): `(Ω · M · Ωᴴ) / n²`. -/
def execDft (vd vs : Fin 8) (s : State) : Host.Outcome State Fault Refusal :=
  s.finish vd (do
    let (n, zs) ← s.squareOperand vs
    return cplxSquare n
      (scaleParts (numCsim n (numOmega n) zs (conjTranspose n (numOmega n))) (fpOfNat (n * n))))

/-- IDFT (43_dft.md R232): `Ωᴴ · X · Ω`, unscaled. -/
def execIdft (vd vs : Fin 8) (s : State) : Host.Outcome State Fault Refusal :=
  s.finish vd (do
    let (n, zs) ← s.squareOperand vs
    return cplxSquare n (numCsim n (conjTranspose n (numOmega n)) zs (numOmega n)))

/-- DFT8 (43_dft.md R233): the forward DFT of order 8 with the constant pair. -/
def execDft8 (vd vs : Fin 8) (s : State) : Host.Outcome State Fault Refusal :=
  s.finish vd (do
    let zs ← s.dft8Operand vs
    return cplxSquare 8 (scaleParts (numCsim 8 s.rom.omega8 zs s.rom.omega8H) (fpOfNat 64)))

/-- IDFT8 (43_dft.md R234): the inverse DFT of order 8 with the constant pair. -/
def execIdft8 (vd vs : Fin 8) (s : State) : Host.Outcome State Fault Refusal :=
  s.finish vd (do
    let zs ← s.dft8Operand vs
    return cplxSquare 8 (numCsim 8 s.rom.omega8H zs s.rom.omega8))

end Sys2Proof.Machine
end

