-- ==== Sys2Proof/Machine/Mask.lean ====
section
/-! DEFINITION. Coefficient masking (45_mask.md): MKMASK and APPLYMASK. -/

namespace Sys2Proof.Machine

/-- The region predicate of a policy on the cell at raster index i = 8r + c (45_mask.md R281). -/
def inRegion (pol : Policy) (i : Nat) : Bool :=
  match pol with
  | .lin => true
  | .diag => decide (i / 8 + i % 8 < 8)
  | .quad => decide (i / 8 < 4 ∧ i % 8 < 4)

/-- The region of a policy "in ascending raster index" (45_mask.md R281). -/
def region (pol : Policy) : List Nat := (List.range 64).filter (inRegion pol)

/-- `kmax`, the policy's clamp bound (45_mask.md R281). -/
def kmax : Policy → Nat
  | .lin => 64
  | .diag => 36
  | .quad => 16

/-- `clamp(k, hi)` (00_scope.md R23). -/
def clamp (k hi : Nat) : Nat := min k hi

/-- The kept cells: the first clamp(k, kmax) of the region (45_mask.md R282). -/
def keptCells (pol : Policy) (k : Nat) : List Nat := (region pol).take (clamp k (kmax pol))

/-- The mask word: bit i is 0 when cell i is kept and 1 otherwise (45_mask.md R282). -/
def maskWord (pol : Policy) (k : Nat) : BitVec 64 :=
  BitVec.ofFnLE fun i : Fin 64 => !((keptCells pol k).contains i.val)

/-- +0.0 where the mask bit is 1; the other cells pass bit for bit (45_mask.md R283). -/
def maskCells (w : BitVec 64) (xs : List F64) : List F64 :=
  xs.mapIdx fun i x => if w.getLsbD i then fpZero else x

/-- MKMASK (45_mask.md R282). -/
def execMkmask (j : Fin 4) (pol : Policy) (k : Nat) (s : State) : Host.Outcome State Fault Refusal :=
  s.finishMask j (maskWord pol k)

/-- APPLYMASK (45_mask.md R283). -/
def execApplymask (vd vs : Fin 8) (j : Fin 4) (s : State) : Host.Outcome State Fault Refusal :=
  s.finish vd (do
    let (xs, w) ← s.maskOperand vs j
    return realBlock (maskCells w xs))

end Sys2Proof.Machine
end

