-- ==== Sys2Proof/Machine/Quant.lean ====
section
/-! DEFINITION. The JPEG quantization and reconstruction unit (44_quant.md): CENTER, QUANT, DEQUANT, RECON, QENC, QDEC.
The elementwise steps work on each raster index by itself (00_scope.md R26). -/

namespace Sys2Proof.Machine

/-- `h(d)`: 2^(d-1) (44_quant.md R250). -/
def halfRange (d : Nat) : F64 := fpOfNat (2 ^ (d - 1))

/-- The quantization table's entry of a cell. -/
def ConstStore.quantum (rom : ConstStore) (cell : Nat) : F64 := rom.qtab.getD cell fpZero

/-- CENTER's step: `sub(P[r][c], h(d))` (44_quant.md R251). -/
def centerCells (d : Nat) (xs : List F64) : List F64 := xs.mapIdx fun i x => fpSub i x (halfRange d)

/-- QUANT's step: `rnd(div(B[r][c], QTAB[r][c]))` (44_quant.md R252). -/
def quantCells (ties : RoundTies) (rom : ConstStore) (xs : List F64) : List F64 :=
  xs.mapIdx fun i x => fpRnd ties i (fpDiv i x (rom.quantum i))

/-- DEQUANT's step: `mul(q[r][c], QTAB[r][c])` (44_quant.md R253). -/
def dequantCells (rom : ConstStore) (xs : List F64) : List F64 := xs.mapIdx fun i x => fpMul i x (rom.quantum i)

/-- One cell of RECON after the inverse DCT: add back h(d), round, times 257 at depth 8, clip (44_quant.md R254). -/
def reconCell (ties : RoundTies) (d cell : Nat) (y : F64) : F64 :=
  let z := fpRnd ties cell (fpAdd cell y (halfRange d))
  let z := if d = 8 then fpMul cell z (fpOfNat 257) else z
  fpClip z fpZero (fpOfNat 65535)

/-- RECON's computation on coefficients (44_quant.md R254). -/
def reconCells (ties : RoundTies) (rom : ConstStore) (d : Nat) (xs : List F64) : List F64 :=
  (inverseDct rom xs).mapIdx fun i y => reconCell ties d i y

/-- CENTER (44_quant.md R251). -/
def execCenter (vd vs : Fin 8) (d : Nat) (s : State) : Host.Outcome State Fault Refusal :=
  s.finish vd (do
    let xs ← s.depthOperand vs d
    return realBlock (centerCells d xs))

/-- QUANT (44_quant.md R252). -/
def execQuant (vd vs : Fin 8) (s : State) : Host.Outcome State Fault Refusal :=
  s.finish vd (do
    let xs ← s.blockOperand vs
    return realBlock (quantCells s.ties s.rom xs))

/-- DEQUANT (44_quant.md R253). -/
def execDequant (vd vs : Fin 8) (s : State) : Host.Outcome State Fault Refusal :=
  s.finish vd (do
    let xs ← s.blockOperand vs
    return realBlock (dequantCells s.rom xs))

/-- RECON (44_quant.md R254). -/
def execRecon (vd vs : Fin 8) (d : Nat) (s : State) : Host.Outcome State Fault Refusal :=
  s.finish vd (do
    let xs ← s.depthOperand vs d
    return realBlock (reconCells s.ties s.rom d xs))

/-- QENC (44_quant.md R255): CENTER's, DCTO's and QUANT's steps in one command. -/
def execQenc (vd vs : Fin 8) (d : Nat) (s : State) : Host.Outcome State Fault Refusal :=
  s.finish vd (do
    let xs ← s.depthOperand vs d
    return realBlock (quantCells s.ties s.rom (forwardDct s.rom (centerCells d xs))))

/-- QDEC (44_quant.md R256): DEQUANT's and RECON's steps in one command. -/
def execQdec (vd vs : Fin 8) (d : Nat) (s : State) : Host.Outcome State Fault Refusal :=
  s.finish vd (do
    let xs ← s.depthOperand vs d
    return realBlock (reconCells s.ties s.rom d (dequantCells s.rom xs)))

end Sys2Proof.Machine
end

