-- ==== Sys2Proof/Machine/Dispatch.lean ====
section
/-! DEFINITION. One arm per command of spec/opcode_table.json. -/

namespace Sys2Proof.Machine

def exec (i : Instr) (s : State) : Host.Outcome State Fault Refusal :=
  match i with
  | .nop => Sys2Proof.Machine.execNop s
  | .mkc1 vd n => Sys2Proof.Machine.execMkc1 vd n s
  | .mkc2 vd n => Sys2Proof.Machine.execMkc2 vd n s
  | .mkc3 vd n => Sys2Proof.Machine.execMkc3 vd n s
  | .mkc4 vd n => Sys2Proof.Machine.execMkc4 vd n s
  | .mkomega vd n => Sys2Proof.Machine.execMkomega vd n s
  | .dctk vd vs => Sys2Proof.Machine.execDctk vd vs s
  | .idctk vd vs => Sys2Proof.Machine.execIdctk vd vs s
  | .dcto vd vs => Sys2Proof.Machine.execDcto vd vs s
  | .idcto vd vs => Sys2Proof.Machine.execIdcto vd vs s
  | .vec2mat vd vs => Sys2Proof.Machine.execVec2mat vd vs s
  | .mat2vec vd vs => Sys2Proof.Machine.execMat2vec vd vs s
  | .dft vd vs => Sys2Proof.Machine.execDft vd vs s
  | .idft vd vs => Sys2Proof.Machine.execIdft vd vs s
  | .dft8 vd vs => Sys2Proof.Machine.execDft8 vd vs s
  | .idft8 vd vs => Sys2Proof.Machine.execIdft8 vd vs s
  | .center vd vs d => Sys2Proof.Machine.execCenter vd vs d s
  | .quant vd vs => Sys2Proof.Machine.execQuant vd vs s
  | .dequant vd vs => Sys2Proof.Machine.execDequant vd vs s
  | .recon vd vs d => Sys2Proof.Machine.execRecon vd vs d s
  | .qenc vd vs d => Sys2Proof.Machine.execQenc vd vs d s
  | .qdec vd vs d => Sys2Proof.Machine.execQdec vd vs d s
  | .mkmask mk pol k => Sys2Proof.Machine.execMkmask mk pol k s
  | .applymask vd vs mk => Sys2Proof.Machine.execApplymask vd vs mk s

end Sys2Proof.Machine
end

