-- ==== Sys2Proof/Machine/Window.lean ====
section
/-! DEFINITION. The register window (10_state.md R60 to R80) and the host's accesses to it (20_memory.md): which register
an offset names, what a read returns and does, what a write does, which accesses are refused and which are held. -/

namespace Sys2Proof.Machine

/-- The registers of the window (10_state.md R60). -/
inductive WinReg where
  | ident
  | config
  | cmd
  | status
  | errcmd
  | ctrl
  | dsel
  | dshape
  | didx
  | dreLo
  | dreHi
  | dimLo
  | dimHi
  | vvalid
  | mkvalid
  | mkLo (j : Fin 4)
  | mkHi (j : Fin 4)
  | reserved
deriving DecidableEq, Repr

/-- The register at an offset that is a multiple of 4 (10_state.md R60, R80). -/
def winReg (off : BitVec 8) : WinReg :=
  match off.toNat with
  | 0x00 => .ident
  | 0x04 => .config
  | 0x08 => .cmd
  | 0x0C => .status
  | 0x10 => .errcmd
  | 0x14 => .ctrl
  | 0x18 => .dsel
  | 0x1C => .dshape
  | 0x20 => .didx
  | 0x24 => .dreLo
  | 0x28 => .dreHi
  | 0x2C => .dimLo
  | 0x30 => .dimHi
  | 0x34 => .vvalid
  | 0x38 => .mkvalid
  | 0x40 => .mkLo 0
  | 0x44 => .mkHi 0
  | 0x48 => .mkLo 1
  | 0x4C => .mkHi 1
  | 0x50 => .mkLo 2
  | 0x54 => .mkHi 2
  | 0x58 => .mkLo 3
  | 0x5C => .mkHi 3
  | _ => .reserved

/-- `ENGINE_BASE`, aligned to 256 bytes (20_memory.md R101, log 14). -/
def engineBase : Nat := 256 * Config.enginePage

/-- The offset of a bus address the platform routes to the engine: the address bits 7:0; none for an address outside the
window (20_memory.md R101). -/
def routed (addr : Nat) : Option (BitVec 8) :=
  if addr / 256 = Config.enginePage then some (BitVec.ofNat 8 addr) else none

/-- Byte lane k of a register carries bits 8k+7:8k (20_memory.md R105). -/
def byteLane (w : Word) (k : Fin 4) : BitVec 8 := w.extractLsb' (8 * k) 8

/-- Bits 31:0 of a 64-bit quantity (20_memory.md R106). -/
def loHalf (x : BitVec 64) : Word := x.extractLsb' 0 32

/-- Bits 63:32 of a 64-bit quantity (20_memory.md R106). -/
def hiHalf (x : BitVec 64) : Word := x.extractLsb' 32 32

/-- V[VSEL] when it is valid and IDX is in range, the condition of every data-port access (20_memory.md R112 to
R115). -/
def State.portMatrix (s : State) : Option Matrix :=
  match s.v[s.vsel] with
  | some m => if s.idx.toNat < m.rows * m.cols then some m else none
  | none => none

/-- The real part of the element at a raster index. -/
def Elems.reAt (e : Elems) (i : Nat) : F64 :=
  match e with
  | .real xs => xs.getD i fpZero
  | .cplx zs => (zs.getD i default).re

/-- The imaginary part of the element at a raster index; +0.0 in a REAL register (10_state.md R47). -/
def Elems.imAt (e : Elems) (i : Nat) : F64 :=
  match e with
  | .real _ => fpZero
  | .cplx zs => (zs.getD i default).im

/-- The elements with one real part replaced (20_memory.md R112). -/
def Elems.setRe (e : Elems) (i : Nat) (x : F64) : Elems :=
  match e with
  | .real xs => .real (xs.set i x)
  | .cplx zs => .cplx (zs.modify i fun z => { z with re := x })

/-- The CPLX elements with one imaginary part replaced; a REAL register has no imaginary storage (20_memory.md R114). -/
def Elems.setIm (e : Elems) (i : Nat) (x : F64) : Option Elems :=
  match e with
  | .real _ => none
  | .cplx zs => some (.cplx (zs.modify i fun z => { z with im := x }))

/-- KIND of a DSHAPE read (10_state.md R74). -/
def Elems.isCplx : Elems → Bool
  | .real _ => false
  | .cplx _ => true

/-- The DSHAPE word as read (10_state.md R74). -/
def State.dshapeWord (s : State) : Word :=
  match s.v[s.vsel] with
  | some m => BitVec.ofBool m.elems.isCplx ++ 1#1 ++ 0#5 ++ BitVec.ofNat 9 m.cols ++ 0#7 ++ BitVec.ofNat 9 m.rows
  | none => 0#32

/-- The VVALID word: bit i is the valid bit of V[i] (10_state.md R79). -/
def State.vvalidWord (s : State) : Word := 0#24 ++ BitVec.ofFnLE fun i : Fin 8 => (s.v[i]).isSome

/-- The MKVALID word: bit j is the valid bit of MK[j] (10_state.md R79). -/
def State.mkvalidWord (s : State) : Word := 0#28 ++ BitVec.ofFnLE fun j : Fin 4 => (s.masks[j]).isSome

/-- A DRE_LO read (20_memory.md R113). -/
def State.readDreLo (s : State) : State × Word :=
  match s.portMatrix with
  | some m =>
    let x := m.elems.reAt s.idx.toNat
    ({ s with rhiRe := hiHalf x }, loHalf x)
  | none => ({ s with rhiRe := 0#32 }.setHerr, 0#32)

/-- A DIM_LO read (20_memory.md R115). -/
def State.readDimLo (s : State) : State × Word :=
  match s.portMatrix with
  | some m =>
    let x := m.elems.imAt s.idx.toNat
    ({ s with rhiIm := hiHalf x }, loHalf x)
  | none => ({ s with rhiIm := 0#32 }.setHerr, 0#32)

/-- A read of one half of MK[j]; an invalid mask register gives 0 and sets HERR (10_state.md R78). -/
def State.readMaskHalf (s : State) (j : Fin 4) (half : BitVec 64 → Word) : State × Word :=
  match s.masks[j] with
  | some w => (s, half w)
  | none => (s.setHerr, 0#32)

/-- A 32-bit read: the state after its side effects (20_memory.md R108) and the value. -/
def State.readReg (s : State) (r : WinReg) : State × Word :=
  match r with
  | .ident => (s, identWord)
  | .config => (s, s.configWord)
  | .cmd => (s, s.lastcmd)
  | .status => (s, s.statusWord)
  | .errcmd => (s, s.errcmd)
  | .ctrl => (s, s.ctrlWord)
  | .dsel => (s, BitVec.ofNat 32 s.vsel)
  | .dshape => (s, s.dshapeWord)
  | .didx => (s, s.idx.setWidth 32)
  | .dreLo => s.readDreLo
  | .dreHi => (s, s.rhiRe)
  | .dimLo => s.readDimLo
  | .dimHi => (s, s.rhiIm)
  | .vvalid => (s, s.vvalidWord)
  | .mkvalid => (s, s.mkvalidWord)
  | .mkLo j => s.readMaskHalf j loHalf
  | .mkHi j => s.readMaskHalf j hiHalf
  | .reserved => (s, 0#32)

/-- A zero-filled matrix register (20_memory.md R111). -/
def zeroMatrix (rows cols : Nat) (cplx : Bool) : Matrix :=
  ⟨rows, cols, if cplx then .cplx (List.replicate (rows * cols) ⟨fpZero, fpZero⟩)
    else .real (List.replicate (rows * cols) fpZero)⟩

/-- A DSHAPE write (20_memory.md R111). -/
def State.writeDshape (s : State) (w : Word) : State :=
  let rows := (w.extractLsb' 0 9).toNat
  let cols := (w.extractLsb' 16 9).toNat
  if rows = 0 ∨ cols = 0 ∨ Config.cap < rows * cols then s.setHerr
  else s.writeV s.vsel (zeroMatrix rows cols w.msb)

/-- A DRE_HI write (20_memory.md R112): the 64-bit part is {w, WLO_RE}. -/
def State.writeDreHi (s : State) (w : Word) : State :=
  match s.portMatrix with
  | some m => s.writeV s.vsel { m with elems := m.elems.setRe s.idx.toNat (w ++ s.wloRe) }
  | none => s.setHerr

/-- A DIM_HI write (20_memory.md R114): the 64-bit part is {w, WLO_IM}, on a CPLX register only. -/
def State.writeDimHi (s : State) (w : Word) : State :=
  match s.portMatrix with
  | some m =>
    match m.elems.setIm s.idx.toNat (w ++ s.wloIm) with
    | some e => s.writeV s.vsel { m with elems := e }
    | none => s.setHerr
  | none => s.setHerr

/-- A CTRL write (10_state.md R69): "first stores IRQ_EN, then performs CLR if bit 1 is set, then SRST if bit 2 is
set". -/
def State.writeCtrl (s : State) (w : Word) : State :=
  let s := { s with irqEn := w.getLsbD 0 }
  let s := if w.getLsbD 1 then s.acknowledge else s
  if w.getLsbD 2 then s.softReset else s

/-- A 32-bit write (20_memory.md R108). -/
def State.writeReg (s : State) (r : WinReg) (w : Word) : State :=
  match r with
  | .ident => s.setHerr
  | .config => s.setHerr
  | .cmd => s.issueDrawn w
  | .status => s.setHerr
  | .errcmd => s.setHerr
  | .ctrl => s.writeCtrl w
  | .dsel => { s with vsel := (w.extractLsb' 0 3).toFin }
  | .dshape => s.writeDshape w
  | .didx => { s with idx := w.extractLsb' 0 16 }
  | .dreLo => { s with wloRe := w }
  | .dreHi => s.writeDreHi w
  | .dimLo => { s with wloIm := w }
  | .dimHi => s.writeDimHi w
  | .vvalid => s.setHerr
  | .mkvalid => s.setHerr
  | .mkLo _ => s.setHerr
  | .mkHi _ => s.setHerr
  | .reserved => s

/-- A 32-bit access at a multiple of 4, the only one the engine defines (20_memory.md R102). -/
def Access.defined (a : Access) : Bool := decide (a.width = 32) && decide (a.off.extractLsb' 0 2 = 0#2)

/-- An access takes effect (20_memory.md R103, R104): the state after it and the bus's answer. A refused one sets HERR,
changes nothing else and is answered by a bus error (log 7). -/
def State.serve (s : State) (a : Access) : State × Answer :=
  if a.defined then
    match a.op with
    | .read =>
      let (t, w) := s.readReg (winReg a.off)
      (t, .data w)
    | .write w => (s.writeReg (winReg a.off) w, .ack)
  else (s.setHerr, .busError)

/-- The registers whose reads proceed at once while a command is pending (20_memory.md R120). -/
def WinReg.unheldRead : WinReg → Bool
  | .ident => true
  | .config => true
  | .cmd => false
  | .status => true
  | .errcmd => false
  | .ctrl => false
  | .dsel => false
  | .dshape => false
  | .didx => false
  | .dreLo => false
  | .dreHi => false
  | .dimLo => false
  | .dimHi => false
  | .vvalid => false
  | .mkvalid => false
  | .mkLo _ => false
  | .mkHi _ => false
  | .reserved => false

/-- The hold rule (20_memory.md R120): "a host read of IDENT, CONFIG or STATUS proceeds at once"; every other access is
held while PEND is set, a refused one too (log 8). -/
def Access.held (a : Access) : Bool :=
  match a.op with
  | .read => !(a.defined && (winReg a.off).unheldRead)
  | .write _ => true

/-- The reset input is not an access and is not held (70_reset_and_hazards.md R340, log 11). -/
def HostEvent.held : HostEvent → Bool
  | .access a => a.held
  | .hardReset => false

/-- An un-held event that gets ahead of the pending command uses up one of its wait (log 2). -/
def State.tick (s : State) : State := { s with pend := s.pend.map fun p => { p with wait := p.wait - 1 } }

/-- The next event of the outside world happens; `rest` is what is still to come after it. -/
def State.hostMove (s : State) (ev : HostEvent) (rest : List HostEvent) : State :=
  let s := { s with script := rest }
  match ev with
  | .hardReset => s.hardReset
  | .access a =>
    let (t, ans) := s.tick.serve a
    { t with answers := ans :: t.answers }

end Sys2Proof.Machine
end

