-- ==== Sys2Proof/Machine/Engine.lean ====
section
/-! DEFINITION. The engine's execute step (40_control.md R171) and whose move comes next (20_memory.md R119, R120). -/

namespace Sys2Proof.Machine

/-- `execute(w)` (40_control.md R171): decode, then the command; a word that is no command raises E_ILLEGAL. -/
def State.execute (s : State) (w : Word) : Host.Outcome State Fault Refusal :=
  match decode w with
  | .ok i => exec i s
  | .error _ => .next (s.raise .illegal)

/-- Who moves next. -/
inductive Turn where
  /-- The engine executes the pending word. -/
  | engine (w : Word)
  /-- The next event of the outside world happens. -/
  | host (ev : HostEvent) (rest : List HostEvent)
  /-- No command is pending and the outside world does nothing more. -/
  | idle
deriving DecidableEq, Repr

/-- Without a pending command the outside world moves. With one, the engine moves, but for un-held events that the latency
of the command lets get ahead (20_memory.md R120, log 2). -/
def State.turn (s : State) : Turn :=
  match s.pend, s.script with
  | none, [] => .idle
  | none, ev :: rest => .host ev rest
  | some p, [] => .engine p.word
  | some p, ev :: rest => if p.wait = 0 ∨ ev.held = true then .engine p.word else .host ev rest

end Sys2Proof.Machine
end

