-- ==== Sys2Proof/Machine/Step.lean ====
section
/-! DEFINITION. One step of the machine: the engine's (40_control.md R171) or one event of the outside world
(20_memory.md R104). -/

namespace Sys2Proof.Machine

/-- One step. With nothing to do the machine keeps its state (60_exceptions.md R320, log 10). -/
def step (s : State) : Host.Outcome State Fault Refusal :=
  match s.turn with
  | .engine w => s.execute w
  | .host ev rest => .next (s.hostMove ev rest)
  | .idle => .next s

/-- The state after a CMD write of the word (40_control.md R170), with no event of the outside world ahead of the engine:
the next step executes exactly that word (log 13). A command is one 32-bit word (30_encoding.md R140). -/
def State.withFetchWord (s : State) (nbits w : Nat) : State := s.issue (BitVec.ofNat 32 (w % 2 ^ nbits)) 0

end Sys2Proof.Machine
end

