-- ==== Sys2Proof/Machine/Exact.lean ====
section
/-! DEFINITION. The exact mathematics the delivered bits are measured against (00_scope.md R13, R21, R29; 41_basis.md R191
to R199; 42_dct.md R211 to R215; 43_dft.md R231 to R234): the exact basis matrices, the exact counterparts of the NUM
functions, and property P-ACC. No step of the machine reads any of it; P-ACC is a hypothesis that a claim names. -/

noncomputable section

namespace Sys2Proof.Machine

/-- The real value of a finite element. -/
def fpReal (x : F64) : ℝ := (fpRat x : ℝ)

/-- The complex value of an element with finite parts. -/
def fpComplex (z : C64) : ℂ := ⟨fpReal z.re, fpReal z.im⟩

/-- y is `fl(x)`, the binary64 value nearest to x, ties to even (00_scope.md R21): no finite value is nearer, and another
value just as near is there only when y's last fraction bit is 0. -/
def isFl (x : ℝ) (y : F64) : Prop :=
  fpFinite y = true ∧ ∀ z : F64, fpFinite z = true → fpReal z ≠ fpReal y →
    |fpReal y - x| < |fpReal z - x| ∨ (|fpReal y - x| = |fpReal z - x| ∧ y.getLsbD 0 = false)

/-- λ(k, n) of DCT-I (41_basis.md R191). -/
def lambdaI (k n : ℕ) : ℝ := if k = 0 ∨ k = n then 1 / √2 else 1

/-- λ(k) of DCT-II (41_basis.md R191). -/
def lambdaII (k : ℕ) : ℝ := if k = 0 then 1 / √2 else 1

/-- Entry (k, l) of the exact DCT-I matrix (41_basis.md R192, 90_conflicts.md C1). -/
def exactI (n k l : ℕ) : ℝ := √(2 / n) * lambdaI k n * lambdaI l n * Real.cos (Real.pi * k * l / n)

/-- Entry (k, l) of the exact DCT-II matrix (41_basis.md R193). -/
def exactII (n k l : ℕ) : ℝ := √2 / √n * lambdaII k * Real.cos (Real.pi * k * (2 * l + 1) / (2 * n))

/-- Entry (k, l) of the exact DCT-III matrix, the inverse of DCT-II (41_basis.md R194). -/
def exactIII (n k l : ℕ) : ℝ := √2 / √n * lambdaII l * Real.cos (Real.pi * l * (2 * k + 1) / (2 * n))

/-- Entry (k, l) of the exact DCT-IV matrix (41_basis.md R196). -/
def exactIV (n k l : ℕ) : ℝ := √2 / √n * Real.cos (Real.pi * (k + 1 / 2) * (l + 1 / 2) / n)

/-- Entry (k, l) of the exact Fourier matrix Ω (41_basis.md R198). -/
def exactOmega (n k l : ℕ) : ℂ := Complex.exp (-2 * Real.pi * Complex.I * k * l / n)

/-- The exact counterpart of `NUM.cosb` (41_basis.md R192, R193, R196). -/
def exactCosb (t : BasisFamily) (n k l : ℕ) : ℝ :=
  match t with
  | .dctI => exactI n k l
  | .dctII => exactII n k l
  | .dctIV => exactIV n k l

/-- The largest order of a basis family (00_scope.md R8). -/
def orderMaxOf (t : BasisFamily) : ℕ :=
  match t with
  | .dctI => orderMaxI
  | .dctII => orderMax
  | .dctIV => orderMax

/-- Entry i of `(C ⊗ C) · vec(M)` for 8×8 matrices, where K[8a+b][8r+c] = C[a][r] · C[b][c] (42_dct.md R211). -/
def exactKron (c : ℕ → ℕ → ℝ) (m : List F64) (i : ℕ) : ℝ :=
  ∑ j ∈ Finset.range 64, c (i / 8) (j / 8) * c (i % 8) (j % 8) * fpReal (m.getD j fpZero)

/-- Entry (k, j) of `L · M · R` for n×n matrices over the reals or the complex numbers (00_scope.md R13). -/
def exactProduct {K : Type} [CommRing K] (n : ℕ) (l m r : ℕ → ℕ → K) (k j : ℕ) : K :=
  ∑ a ∈ Finset.range n, ∑ b ∈ Finset.range n, l k a * m a b * r b j

/-- Entry i, in raster order, of `L · M · R` with a matrix of REAL elements in the middle (42_dct.md R214, R215). -/
def exactSim (n : ℕ) (l : ℕ → ℕ → ℝ) (m : List F64) (r : ℕ → ℕ → ℝ) (i : ℕ) : ℝ :=
  exactProduct n l (fun a b => fpReal (m.getD (a * n + b) fpZero)) r (i / n) (i % n)

/-- Entry i, in raster order, of `L · M · R` with a matrix of CPLX elements in the middle (43_dft.md R231, R232). -/
def exactCsim (n : ℕ) (l : ℕ → ℕ → ℂ) (m : List C64) (r : ℕ → ℕ → ℂ) (i : ℕ) : ℂ :=
  exactProduct n l (fun a b => fpComplex (m.getD (a * n + b) default)) r (i / n) (i % n)

/-- The exact conjugate transpose of a complex matrix (00_scope.md R13). -/
def exactConjT (c : ℕ → ℕ → ℂ) (k l : ℕ) : ℂ := (starRingEnd ℂ) (c l k)

/-- A delivered real element is finite and within a bound of an exact value (00_scope.md R29). -/
def near (bound : ℝ) (x : F64) (exact : ℝ) : Prop := fpFinite x = true ∧ |fpReal x - exact| ≤ bound

/-- "For a complex element the bound applies to the real and imaginary parts separately" (00_scope.md R29). -/
def nearComplex (bound : ℝ) (z : C64) (exact : ℂ) : Prop := near bound z.re exact.re ∧ near bound z.im exact.im

/-- The operand has 64 elements, all finite, and S ≥ 1 bounds their magnitudes (00_scope.md R29). The least such S is the
rule's S, so a bound for every such S is the rule's bound (log 19). -/
def realOperandBound (m : List F64) (S : ℝ) : Prop :=
  m.length = 64 ∧ (∀ x ∈ m, fpFinite x = true ∧ |fpReal x| ≤ S) ∧ 1 ≤ S

/-- The same for complex operands of order n; the magnitude of an element is its modulus (log 19). -/
def complexOperandBound (n : ℕ) (m : List C64) (S : ℝ) : Prop :=
  m.length = n * n ∧ (∀ z ∈ m, fpFinite z.re = true ∧ fpFinite z.im = true ∧ ‖fpComplex z‖ ≤ S) ∧ 1 ≤ S

/-! Property P-ACC (00_scope.md R29), one definition per NUM function, each at one argument: the delivered elements are
within `eps × S` of the exact counterpart's. A claim names the arguments it assumes it for; `eps` is open (R7, log 19). -/

/-- P-ACC of `NUM.cosb` at a family and order (41_basis.md R192, R193, R196). -/
def AccCosb (eps : ℝ) (t : BasisFamily) (n : ℕ) : Prop :=
  ∀ k l, k < basisSide t n → l < basisSide t n →
    near eps ((numCosb t n).getD (k * basisSide t n + l) fpZero) (exactCosb t n k l)

/-- P-ACC of `NUM.omega` at an order (41_basis.md R198). -/
def AccOmega (eps : ℝ) (n : ℕ) : Prop :=
  ∀ k l, k < n → l < n → nearComplex eps ((numOmega n).getD (k * n + l) default) (exactOmega n k l)

/-- P-ACC of `NUM.inv` at the delivered DCT-II basis of an order (41_basis.md R195). -/
def AccInv (eps : ℝ) (n : ℕ) : Prop :=
  ∀ k l, k < n → l < n → near eps ((numInv n (numCosb .dctII n)).getD (k * n + l) fpZero) (exactIII n k l)

/-- P-ACC of `NUM.kron` with the forward basis at an operand (42_dct.md R211). -/
def AccKronForward (eps : ℝ) (m : List F64) : Prop :=
  ∀ S i, realOperandBound m S → i < 64 →
    near (eps * S) ((numKron c8IIValue m).getD i fpZero) (exactKron (exactII 8) m i)

/-- P-ACC of `NUM.kron` with the inverse basis at an operand (42_dct.md R212). -/
def AccKronInverse (eps : ℝ) (m : List F64) : Prop :=
  ∀ S i, realOperandBound m S → i < 64 →
    near (eps * S) ((numKron c8IIIValue m).getD i fpZero) (exactKron (exactIII 8) m i)

/-- P-ACC of `NUM.rsim` with the forward basis at an operand (42_dct.md R214). -/
def AccRsimForward (eps : ℝ) (m : List F64) : Prop :=
  ∀ S i, realOperandBound m S → i < 64 →
    near (eps * S) ((numRsim c8IIValue m (transpose 8 c8IIValue)).getD i fpZero)
      (exactSim 8 (exactII 8) m (fun k l => exactII 8 l k) i)

/-- P-ACC of `NUM.rsim` with the inverse basis at an operand (42_dct.md R215). -/
def AccRsimInverse (eps : ℝ) (m : List F64) : Prop :=
  ∀ S i, realOperandBound m S → i < 64 →
    near (eps * S) ((numRsim c8IIIValue m (transpose 8 c8IIIValue)).getD i fpZero)
      (exactSim 8 (exactIII 8) m (fun k l => exactIII 8 l k) i)

/-- P-ACC of `NUM.csim` for the forward DFT at an operand, before the division by n² (43_dft.md R231). -/
def AccCsimForward (eps : ℝ) (n : ℕ) (m : List C64) : Prop :=
  ∀ S i, complexOperandBound n m S → i < n * n →
    nearComplex (eps * S) ((numCsim n (numOmega n) m (conjTranspose n (numOmega n))).getD i default)
      (exactCsim n (exactOmega n) m (exactConjT (exactOmega n)) i)

/-- P-ACC of `NUM.csim` for the inverse DFT at an operand (43_dft.md R232). -/
def AccCsimInverse (eps : ℝ) (n : ℕ) (m : List C64) : Prop :=
  ∀ S i, complexOperandBound n m S → i < n * n →
    nearComplex (eps * S) ((numCsim n (conjTranspose n (numOmega n)) m (numOmega n)).getD i default)
      (exactCsim n (exactConjT (exactOmega n)) m (exactOmega n) i)

end Sys2Proof.Machine

end
end

