-- ==== Sys2Proof/Safety.lean ====
section
/-! DEFINITION. The terms claims use: the invariant of the machine, what a clean run is, and what a command reads and
writes. -/

namespace Sys2Proof.Machine

/-- A legal quantization table: 64 entries, each an integer between 1 and 65535 stored as binary64 (10_state.md R57). -/
def qtabLegal (q : List F64) : Prop := q.length = 64 ∧ ∀ x ∈ q, ∃ k : Nat, 1 ≤ k ∧ k ≤ 65535 ∧ x = fpOfNat k

/-- The constant store holds its defining values (10_state.md R53 to R57). -/
def ConstStore.wf (rom : ConstStore) : Prop :=
  rom.c8II = c8IIValue ∧ rom.c8III = c8IIIValue ∧ rom.omega8 = omega8Value ∧ rom.omega8H = omega8HValue ∧
    qtabLegal rom.qtab

/-- The invariant of the machine. -/
structure State.Inv (s : State) : Prop where
  /-- Every valid matrix register has a legal shape and as many elements as it says (10_state.md R44). -/
  regs : ∀ (r : Fin 8) (m : Matrix), s.v[r] = some m → m.wf
  /-- The constant store is what the build says (10_state.md R53). -/
  rom : s.rom.wf
  /-- While a command is pending DONE is 0 (10_state.md R63) and LASTCMD is its word (40_control.md R170). -/
  pending : ∀ p, s.pend = some p → s.done = false ∧ s.lastcmd = p.word
  /-- MERR = 1 only beside ERR = 1 (10_state.md R65). -/
  merr : s.merr = true → s.err.isSome = true

/-- No command has failed and no host access has been refused since the last clear: "ERR = 0 means every command of the
sequence succeeded ... The same holds for HERR and the data port" (70_reset_and_hazards.md R350). -/
def State.clean (s : State) : Prop := s.err = none ∧ s.merr = false ∧ s.herr = false

/-- The state after a command has written V[vd] and completed: nothing else has changed (40_control.md R171, R173). -/
def State.committed (s : State) (vd : Fin 8) (m : Matrix) : State :=
  { s with v := s.v.set vd (some m), pend := none, done := true }

/-- The state after MKMASK has written MK[j] and completed: nothing else has changed (40_control.md R171, R173). -/
def State.masked (s : State) (j : Fin 4) (w : BitVec 64) : State :=
  { s with masks := s.masks.set j (some w), pend := none, done := true }

/-- The state after a command has failed with an error code (60_exceptions.md R302): the first error is recorded with
its command word, a later one sets MERR, the command completes and nothing else changes. -/
def State.failed (s : State) (e : ErrCode) : State :=
  match s.err with
  | none => { s with err := some ⟨e, s.commandWord⟩, pend := none, done := true }
  | some _ => { s with merr := true, pend := none, done := true }

/-- `MemRead(off, 4)` (20_memory.md R104). -/
def readAt (off : BitVec 8) : Access := ⟨off, 32, .read⟩

/-- `MemWrite(off, 4, v)` (20_memory.md R104). -/
def writeAt (off : BitVec 8) (v : Word) : Access := ⟨off, 32, .write v⟩

/-- "V[VSEL] is invalid or IDX ≥ rows×cols" (20_memory.md R117). -/
def State.portFails (s : State) : Prop :=
  s.v[s.vsel] = none ∨ ∃ m, s.v[s.vsel] = some m ∧ m.rows * m.cols ≤ s.idx.toNat

/-- The next step is a reset: the reset input, or a CTRL write with SRST (70_reset_and_hazards.md R340, R341). -/
def State.resetsNext (s : State) : Prop :=
  ∃ ev rest, s.turn = .host ev rest ∧
    (ev = .hardReset ∨ ∃ w : Word, ev = .access (writeAt 0x14 w) ∧ w.getLsbD 2 = true)

/-- The next step clears the sticky flags: a reset or a CTRL write with CLR (10_state.md R64 to R66). -/
def State.clearsNext (s : State) : Prop :=
  s.resetsNext ∨ ∃ rest, ∃ w : Word, s.turn = .host (.access (writeAt 0x14 w)) rest ∧ w.getLsbD 1 = true

/-- A matrix of coefficients or samples whose elements are all zero, of either sign (00_scope.md R30). -/
def Elems.allZero (e : Elems) : Prop := ∀ z ∈ e.toComplex, complexIsZero z = true

end Sys2Proof.Machine

namespace Sys2Proof

/-- The region of a policy, on row and column (45_mask.md R281). -/
def Policy.region (pol : Policy) (r c : Nat) : Bool :=
  match pol with
  | .lin => true
  | .diag => decide (r + c < 8)
  | .quad => decide (r < 4) && decide (c < 4)

/-- The opcode map with the must-be-zero mask of each row's format: (OP, mask) (30_encoding.md R142, R148). -/
def opcodeRows : List (Word × Word) :=
  [(0x00#32, 0xFFFFFFFF#32)] ++
  [(0x10#32, 0xFFE0F8FF#32), (0x11#32, 0xFFE0F8FF#32), (0x12#32, 0xFFE0F8FF#32), (0x13#32, 0xFFE0F8FF#32),
    (0x14#32, 0xFFE0F8FF#32)] ++
  [(0x20#32, 0xFFFFC0FF#32), (0x21#32, 0xFFFFC0FF#32), (0x22#32, 0xFFFFC0FF#32), (0x23#32, 0xFFFFC0FF#32),
    (0x28#32, 0xFFFFC0FF#32), (0x29#32, 0xFFFFC0FF#32)] ++
  [(0x30#32, 0xFFFFC0FF#32), (0x31#32, 0xFFFFC0FF#32), (0x32#32, 0xFFFFC0FF#32), (0x33#32, 0xFFFFC0FF#32)] ++
  [(0x40#32, 0xFFE0C0FF#32), (0x41#32, 0xFFFFC0FF#32), (0x42#32, 0xFFFFC0FF#32), (0x43#32, 0xFFE0C0FF#32),
    (0x44#32, 0xFFE0C0FF#32), (0x45#32, 0xFFE0C0FF#32)] ++
  [(0x50#32, 0xC01F3FFF#32), (0x51#32, 0xFFFF00FF#32)]

/-- The destination matrix register of a command (10_state.md R49). -/
def Instr.destV : Instr → Option (Fin 8)
  | .nop => none
  | .mkc1 vd _ => some vd
  | .mkc2 vd _ => some vd
  | .mkc3 vd _ => some vd
  | .mkc4 vd _ => some vd
  | .mkomega vd _ => some vd
  | .dctk vd _ => some vd
  | .idctk vd _ => some vd
  | .dcto vd _ => some vd
  | .idcto vd _ => some vd
  | .vec2mat vd _ => some vd
  | .mat2vec vd _ => some vd
  | .dft vd _ => some vd
  | .idft vd _ => some vd
  | .dft8 vd _ => some vd
  | .idft8 vd _ => some vd
  | .center vd _ _ => some vd
  | .quant vd _ => some vd
  | .dequant vd _ => some vd
  | .recon vd _ _ => some vd
  | .qenc vd _ _ => some vd
  | .qdec vd _ _ => some vd
  | .mkmask _ _ _ => none
  | .applymask vd _ _ => some vd

/-- The source matrix register of a command (10_state.md R49). -/
def Instr.srcV : Instr → Option (Fin 8)
  | .nop => none
  | .mkc1 _ _ => none
  | .mkc2 _ _ => none
  | .mkc3 _ _ => none
  | .mkc4 _ _ => none
  | .mkomega _ _ => none
  | .dctk _ vs => some vs
  | .idctk _ vs => some vs
  | .dcto _ vs => some vs
  | .idcto _ vs => some vs
  | .vec2mat _ vs => some vs
  | .mat2vec _ vs => some vs
  | .dft _ vs => some vs
  | .idft _ vs => some vs
  | .dft8 _ vs => some vs
  | .idft8 _ vs => some vs
  | .center _ vs _ => some vs
  | .quant _ vs => some vs
  | .dequant _ vs => some vs
  | .recon _ vs _ => some vs
  | .qenc _ vs _ => some vs
  | .qdec _ vs _ => some vs
  | .mkmask _ _ _ => none
  | .applymask _ vs _ => some vs

/-- The destination mask register of a command (10_state.md R52). -/
def Instr.destMask : Instr → Option (Fin 4)
  | .mkmask j _ _ => some j
  | .nop => none
  | .mkc1 _ _ => none
  | .mkc2 _ _ => none
  | .mkc3 _ _ => none
  | .mkc4 _ _ => none
  | .mkomega _ _ => none
  | .dctk _ _ => none
  | .idctk _ _ => none
  | .dcto _ _ => none
  | .idcto _ _ => none
  | .vec2mat _ _ => none
  | .mat2vec _ _ => none
  | .dft _ _ => none
  | .idft _ _ => none
  | .dft8 _ _ => none
  | .idft8 _ _ => none
  | .center _ _ _ => none
  | .quant _ _ => none
  | .dequant _ _ => none
  | .recon _ _ _ => none
  | .qenc _ _ _ => none
  | .qdec _ _ _ => none
  | .applymask _ _ _ => none

/-- The source mask register of a command (10_state.md R52). -/
def Instr.srcMask : Instr → Option (Fin 4)
  | .applymask _ _ j => some j
  | .nop => none
  | .mkc1 _ _ => none
  | .mkc2 _ _ => none
  | .mkc3 _ _ => none
  | .mkc4 _ _ => none
  | .mkomega _ _ => none
  | .dctk _ _ => none
  | .idctk _ _ => none
  | .dcto _ _ => none
  | .idcto _ _ => none
  | .vec2mat _ _ => none
  | .mat2vec _ _ => none
  | .dft _ _ => none
  | .idft _ _ => none
  | .dft8 _ _ => none
  | .idft8 _ _ => none
  | .center _ _ _ => none
  | .quant _ _ => none
  | .dequant _ _ => none
  | .recon _ _ _ => none
  | .qenc _ _ _ => none
  | .qdec _ _ _ => none
  | .mkmask _ _ _ => none

end Sys2Proof
end

