-- ==== Sys2Proof/Certificates/Slice0/Obligations.lean ====
section
/-! DEFINITION. The statements for the provers. Each docstring names the rules of spec/ it formalises; where a clause
rests on a choice of the model, it names the log entry. -/

section

open Sys2Proof Sys2Proof.Machine

/-! Encoding -/

/-- Decoding the word of a well-formed command gives that command back, for every command and every value its fields can
hold (30_encoding.md R141, R142, R148, R151). -/
def Obligations.DecodeOfEncode : Prop := ∀ i : Instr, i.wellFormed = true → decode (encode i) = .ok i

/-- A word that decodes is the word of the command it decodes to, and that command is well formed: no bit of a word is
dropped and no two words share a meaning (30_encoding.md R141, R142, R150, R151). -/
def Obligations.EncodeOfDecode : Prop :=
  ∀ (w : Word) (i : Instr), decode w = .ok i → encode i = w ∧ i.wellFormed = true

/-- A word is a command exactly when it matches a row of the opcode map under the mask of the row's format and is no
MKMASK with POL = 3; every other pending word fails with E_ILLEGAL (30_encoding.md R149, R150). -/
def Obligations.IllegalWords : Prop :=
  (∀ w : Word, (∃ i, decode w = .ok i) ↔
    ∃ row ∈ opcodeRows, w &&& row.2 = row.1 ∧ ¬(row.1 = 0x50#32 ∧ w.extractLsb' 28 2 = 3#2)) ∧
  ∀ (s : State) (p : Pending), s.pend = some p → (¬∃ i, decode p.word = .ok i) →
    s.execute p.word = .next (s.failed .illegal)

/-- Words of the spec's own examples decode to the commands they stand for (30_encoding.md R153, 41_basis.md R193 and
R199, 42_dct.md R217, 43_dft.md R232, 44_quant.md R252). -/
def Obligations.SampleWordsDecode : Prop :=
  decode 0x00000000#32 = .ok .nop ∧ decode 0x00080111#32 = .ok (.mkc2 1 8) ∧
  decode 0x00040414#32 = .ok (.mkomega 4 4) ∧ decode 0x00000A22#32 = .ok (.dcto 2 1) ∧
  decode 0x00000128#32 = .ok (.vec2mat 1 0) ∧ decode 0x00000A31#32 = .ok (.idft 2 1) ∧
  decode 0x00000A41#32 = .ok (.quant 2 1) ∧ decode 0x00080144#32 = .ok (.qenc 1 0 8) ∧
  decode 0x11400050#32 = .ok (.mkmask 0 .diag 10) ∧ decode 0x00001351#32 = .ok (.applymask 3 2 0)

/-! The command cycle -/

/-- A step runs the pending command: when the pending word decodes to a command and no un-held event of the outside world
gets ahead of it, step is exec of that command at that very state, with nothing added around it; withFetchWord makes a
word pending so that the very next step runs it; and with nothing pending and nothing to come the machine keeps its state
(40_control.md R171, 60_exceptions.md R320). That `wait` decides what gets ahead is the model's choice (log 2), and so are
withFetchWord (log 13) and the step of an idle machine (log 10). -/
def Obligations.StepRunsThePendingCommand : Prop :=
  (∀ (s : State) (p : Pending) (i : Instr), s.pend = some p → decode p.word = .ok i →
    (s.script = [] ∨ p.wait = 0 ∨ ∃ ev rest, s.script = ev :: rest ∧ ev.held = true) → step s = exec i s) ∧
  (∀ (s : State) (w : Word) (i : Instr), decode w = .ok i →
    (s.withFetchWord 32 w.toNat).pend = some ⟨w, 0⟩ ∧
    step (s.withFetchWord 32 w.toNat) = exec i (s.withFetchWord 32 w.toNat)) ∧
  ∀ s : State, s.pend = none → s.script = [] → step s = .next s

/-- Every command, in every state, completes in one step: PEND clear, DONE set; it writes no matrix register but its VD, no
mask register but MKMASK's MK, and beyond those only ERR, ERRCODE, ERRCMD and MERR (40_control.md R173, R174, R179,
10_state.md R49, R52). -/
def Obligations.EveryCommandCompletes : Prop :=
  ∀ (i : Instr) (s : State), ∃ t, exec i s = .next t ∧
    (∀ r : Fin 8, i.destV ≠ some r → t.v[r] = s.v[r]) ∧
    (∀ j : Fin 4, i.destMask ≠ some j → t.masks[j] = s.masks[j]) ∧
    t = { s with v := t.v, masks := t.masks, pend := none, done := true, err := t.err, merr := t.merr }

/-- Purity. In two states that agree on the constant store, ROUND_TIES and the command's own source registers, and on
nothing else, a command writes the same value to its destination in both or fails with the same error in both. So a
repeated failing command fails identically (40_control.md R174, R176, 60_exceptions.md R306). That the NaN bits an operation makes
agree in the two states is the model's choice (log 5), and so is the word an error records in a state with no command
pending (log 9). -/
def Obligations.CommandsArePure : Prop :=
  ∀ (i : Instr) (s t : State), s.rom = t.rom → s.ties = t.ties →
    (∀ r : Fin 8, i.srcV = some r → s.v[r] = t.v[r]) → (∀ j : Fin 4, i.srcMask = some j → s.masks[j] = t.masks[j]) →
    (∃ vd m, i.destV = some vd ∧ exec i s = .next (s.committed vd m) ∧ exec i t = .next (t.committed vd m)) ∨
    (∃ j w, i.destMask = some j ∧ exec i s = .next (s.masked j w) ∧ exec i t = .next (t.masked j w)) ∨
    (i = .nop ∧ exec i s = .next { s with pend := none, done := true } ∧
      exec i t = .next { t with pend := none, done := true }) ∨
    ∃ e, exec i s = .next (s.failed e) ∧ exec i t = .next (t.failed e)

/-- When a command raises an error and ERR = 0, ERR, ERRCODE and ERRCMD record the code and the pending word; when ERR = 1
only MERR is set; then it completes and nothing else changes. And a pending command either leaves ERR, ERRCODE, ERRCMD and
MERR alone or ends by such a raise (60_exceptions.md R302). -/
def Obligations.ErrorsAreRecorded : Prop :=
  (∀ (s : State) (p : Pending) (e : ErrCode), s.pend = some p → s.err = none →
    s.raise e = { s with err := some ⟨e, p.word⟩, pend := none, done := true } ∧
    (s.raise e).errcode = e.code ∧ (s.raise e).errcmd = p.word) ∧
  (∀ (s : State) (e : ErrCode), s.err.isSome = true →
    s.raise e = { s with merr := true, pend := none, done := true }) ∧
  ∀ (s : State) (p : Pending), s.pend = some p → ∃ t, s.execute p.word = .next t ∧
    ((t.err = s.err ∧ t.merr = s.merr) ∨ ∃ e, t = s.raise e)

/-- NOP: its only word is 0; it completes and does nothing else; a word with its opcode and another bit set fails with
E_ILLEGAL; issued by the host right after reset it leaves STATUS = 0x00000002 (40_control.md R177). -/
def Obligations.NopOnlyCompletes : Prop :=
  (∀ w : Word, decode w = .ok .nop ↔ w = 0#32) ∧
  (∀ s : State, exec .nop s = .next { s with pend := none, done := true }) ∧
  (∀ w : Word, w ≠ 0#32 → w.extractLsb' 0 8 ≠ 0x00#8 ∨ ∃ r, decode w = .error r) ∧
  (∀ (s : State) (p : Pending), s.pend = some p → p.word.extractLsb' 0 8 = 0x00#8 → p.word ≠ 0#32 →
    s.execute p.word = .next (s.failed .illegal)) ∧
  ∃ t, Host.Core.run core 2 { State.reset with script := [.access (writeAt 0x08 0x00000000#32)] } = .next t ∧
    t.statusWord = 0x00000002#32

/-! The basis unit -/

/-- For every legal order MKC1, MKC2, MKC3, MKC4 and MKOMEGA replace VD by the NUM matrix of that order, of the shape and
kind the rule gives, and complete (41_basis.md R192, R193, R195, R197, R199). -/
def Obligations.BasisCommandsBuildTheirMatrix : Prop :=
  ∀ (s : State) (vd : Fin 8) (n : Nat), 1 ≤ n →
    (n ≤ 15 → exec (.mkc1 vd n) s = .next (s.committed vd ⟨n + 1, n + 1, .real (numCosb .dctI n)⟩)) ∧
    (n ≤ 16 →
      exec (.mkc2 vd n) s = .next (s.committed vd ⟨n, n, .real (numCosb .dctII n)⟩) ∧
      exec (.mkc3 vd n) s = .next (s.committed vd ⟨n, n, .real (numInv n (numCosb .dctII n))⟩) ∧
      exec (.mkc4 vd n) s = .next (s.committed vd ⟨n, n, .real (numCosb .dctIV n)⟩) ∧
      exec (.mkomega vd n) s = .next (s.committed vd ⟨n, n, .cplx (numOmega n)⟩))

/-- An order outside 1 to 15 for MKC1, or outside 1 to 16 for the others, fails with E_ORDER (41_basis.md R190). -/
def Obligations.BasisOrderErrors : Prop :=
  ∀ (s : State) (vd : Fin 8) (n : Nat),
    (n = 0 ∨ 16 ≤ n → exec (.mkc1 vd n) s = .next (s.failed .order)) ∧
    (n = 0 ∨ 17 ≤ n → ∀ i ∈ [Instr.mkc2 vd n, .mkc3 vd n, .mkc4 vd n, .mkomega vd n],
      exec i s = .next (s.failed .order))

/-- C8_II, C8_III and Ω8 are their NUM values and bit-identical to what MKC2, MKC3 and MKOMEGA deliver at n = 8, and Ω8ᴴ
is the exact conjugate transpose of Ω8 (10_state.md R54, R55, R56). -/
def Obligations.OrderEightBasesAreTheConstants : Prop :=
  ∀ (s : State) (vd : Fin 8), s.Inv →
    s.rom.c8II = numCosb .dctII 8 ∧ s.rom.c8III = numInv 8 s.rom.c8II ∧ s.rom.omega8 = numOmega 8 ∧
    exec (.mkc2 vd 8) s = .next (s.committed vd ⟨8, 8, .real s.rom.c8II⟩) ∧
    exec (.mkc3 vd 8) s = .next (s.committed vd ⟨8, 8, .real s.rom.c8III⟩) ∧
    exec (.mkomega vd 8) s = .next (s.committed vd ⟨8, 8, .cplx s.rom.omega8⟩) ∧
    s.rom.omega8H.length = 64 ∧
    ∀ k l, k < 8 → l < 8 → ∃ z, s.rom.omega8[8 * l + k]? = some z ∧
      s.rom.omega8H[8 * k + l]? = some ⟨z.re, z.im ^^^ 0x8000000000000000#64⟩

/-- The transposes are exact: the transpose of an n×n matrix has at (r, c) the bits of (c, r), and the conjugate transpose
has them with the sign bit of the imaginary part flipped (00_scope.md R31). -/
def Obligations.ExactTransposes : Prop :=
  (∀ (n r c : Nat) (xs : List F64), xs.length = n * n → r < n → c < n →
    (transpose n xs).length = n * n ∧ (transpose n xs)[n * r + c]? = xs[n * c + r]?) ∧
  ∀ (n r c : Nat) (zs : List C64), zs.length = n * n → r < n → c < n →
    (conjTranspose n zs).length = n * n ∧ ∃ z, zs[n * c + r]? = some z ∧
      (conjTranspose n zs)[n * r + c]? = some ⟨z.re, z.im ^^^ 0x8000000000000000#64⟩

/-! The transform unit -/

/-- On an 8×8 REAL operand DCTK and IDCTK deliver NUM.kron of C8_II and of C8_III, and DCTO and IDCTO deliver NUM.rsim of
C8_II and of C8_III with their exact transposes on the right, as an 8×8 REAL matrix, and complete (42_dct.md R210 to
R215). -/
def Obligations.DctCommandResults : Prop :=
  ∀ (s : State) (vd vs : Fin 8) (xs : List F64), s.v[vs] = some ⟨8, 8, .real xs⟩ →
    exec (.dctk vd vs) s = .next (s.committed vd ⟨8, 8, .real (numKron s.rom.c8II xs)⟩) ∧
    exec (.idctk vd vs) s = .next (s.committed vd ⟨8, 8, .real (numKron s.rom.c8III xs)⟩) ∧
    exec (.dcto vd vs) s =
      .next (s.committed vd ⟨8, 8, .real (numRsim s.rom.c8II xs (transpose 8 s.rom.c8II))⟩) ∧
    exec (.idcto vd vs) s =
      .next (s.committed vd ⟨8, 8, .real (numRsim s.rom.c8III xs (transpose 8 s.rom.c8III))⟩)

/-- What DCTK, IDCTK, DCTO, IDCTO, QUANT, DEQUANT and APPLYMASK report, in the order of priority: E_UNINIT, for APPLYMASK
VS before MK, then E_TYPE, then E_SHAPE (42_dct.md R210, 44_quant.md R250, 45_mask.md R283, 60_exceptions.md R303). -/
def Obligations.BlockOperandErrors : Prop :=
  ∀ (s : State) (vd vs : Fin 8) (j : Fin 4),
    (∀ i ∈ [Instr.dctk vd vs, .idctk vd vs, .dcto vd vs, .idcto vd vs, .quant vd vs, .dequant vd vs],
      (s.v[vs] = none → exec i s = .next (s.failed .uninit)) ∧
      (∀ r c zs, s.v[vs] = some ⟨r, c, .cplx zs⟩ → exec i s = .next (s.failed .type)) ∧
      (∀ r c xs, s.v[vs] = some ⟨r, c, .real xs⟩ → ¬(r = 8 ∧ c = 8) → exec i s = .next (s.failed .shape))) ∧
    (s.v[vs] = none → exec (.applymask vd vs j) s = .next (s.failed .uninit)) ∧
    (s.masks[j] = none → exec (.applymask vd vs j) s = .next (s.failed .uninit)) ∧
    (∀ r c zs w, s.v[vs] = some ⟨r, c, .cplx zs⟩ → s.masks[j] = some w →
      exec (.applymask vd vs j) s = .next (s.failed .type)) ∧
    ∀ r c xs w, s.v[vs] = some ⟨r, c, .real xs⟩ → s.masks[j] = some w → ¬(r = 8 ∧ c = 8) →
      exec (.applymask vd vs j) s = .next (s.failed .shape)

/-- What the commands with a depth report, in the order of priority: E_UNINIT, E_TYPE, E_DEPTH, E_SHAPE (44_quant.md
R250, 60_exceptions.md R303). -/
def Obligations.DepthOperandErrors : Prop :=
  ∀ (s : State) (vd vs : Fin 8) (d : Nat),
    ∀ i ∈ [Instr.center vd vs d, .recon vd vs d, .qenc vd vs d, .qdec vd vs d],
      (s.v[vs] = none → exec i s = .next (s.failed .uninit)) ∧
      (∀ r c zs, s.v[vs] = some ⟨r, c, .cplx zs⟩ → exec i s = .next (s.failed .type)) ∧
      (∀ r c xs, s.v[vs] = some ⟨r, c, .real xs⟩ → d ≠ 8 → d ≠ 16 → exec i s = .next (s.failed .depth)) ∧
      ∀ r c xs, s.v[vs] = some ⟨r, c, .real xs⟩ → (d = 8 ∨ d = 16) → ¬(r = 8 ∧ c = 8) →
        exec i s = .next (s.failed .shape)

/-- VEC2MAT makes an n×n matrix of a row or column vector of n² elements and MAT2VEC a row vector of an n×n matrix; kind
and elements stay bit for bit at their raster indices (42_dct.md R216, R217, R218). -/
def Obligations.ReshapeCommandsKeepElements : Prop :=
  ∀ (s : State) (vd vs : Fin 8) (n : Nat) (e : Elems),
    (1 ≤ n → s.v[vs] = some ⟨1, n * n, e⟩ ∨ s.v[vs] = some ⟨n * n, 1, e⟩ →
      exec (.vec2mat vd vs) s = .next (s.committed vd ⟨n, n, e⟩)) ∧
    (s.v[vs] = some ⟨n, n, e⟩ → exec (.mat2vec vd vs) s = .next (s.committed vd ⟨1, n * n, e⟩))

/-- VEC2MAT then MAT2VEC gives a row vector of length n² back exactly, and turns a column vector into the row vector of the
same elements; MAT2VEC then VEC2MAT gives a square matrix back (42_dct.md R217, R218). -/
def Obligations.ReshapeRoundTrip : Prop :=
  ∀ (s : State) (va vb vs : Fin 8) (n : Nat) (e : Elems), 1 ≤ n →
    (s.v[vs] = some ⟨1, n * n, e⟩ ∨ s.v[vs] = some ⟨n * n, 1, e⟩ →
      ∃ t u, exec (.vec2mat va vs) s = .next t ∧ exec (.mat2vec vb va) t = .next u ∧
        u.v[vb] = some ⟨1, n * n, e⟩) ∧
    (s.v[vs] = some ⟨n, n, e⟩ →
      ∃ t u, exec (.mat2vec va vs) s = .next t ∧ exec (.vec2mat vb va) t = .next u ∧ u.v[vb] = s.v[vs])

/-- What VEC2MAT reports, in the order of priority: E_UNINIT, E_SHAPE for no vector, E_LENGTH for a length that is no
square; what MAT2VEC, DFT and IDFT report: E_UNINIT, E_SHAPE for no square matrix; what DFT8 and IDFT8 report: E_UNINIT,
E_SHAPE for any shape but 8×8 (42_dct.md R217, R218, 43_dft.md R230, R233, R234, 60_exceptions.md R303). -/
def Obligations.ReshapeAndDftErrors : Prop :=
  ∀ (s : State) (vd vs : Fin 8),
    (s.v[vs] = none → ∀ i ∈ [Instr.vec2mat vd vs, .mat2vec vd vs, .dft vd vs, .idft vd vs, .dft8 vd vs, .idft8 vd vs],
      exec i s = .next (s.failed .uninit)) ∧
    ∀ r c e, s.v[vs] = some ⟨r, c, e⟩ →
      (r ≠ 1 ∧ c ≠ 1 → exec (.vec2mat vd vs) s = .next (s.failed .shape)) ∧
      ((r = 1 ∨ c = 1) ∧ (¬∃ n, 1 ≤ n ∧ n * n = r * c) → exec (.vec2mat vd vs) s = .next (s.failed .length)) ∧
      (r ≠ c → ∀ i ∈ [Instr.mat2vec vd vs, .dft vd vs, .idft vd vs], exec i s = .next (s.failed .shape)) ∧
      (¬(r = 8 ∧ c = 8) → ∀ i ∈ [Instr.dft8 vd vs, .idft8 vd vs], exec i s = .next (s.failed .shape))

/-- On a square operand of order n, REAL or CPLX, DFT delivers NUM.csim(Ω, M, Ωᴴ) with both parts of every element divided
by n², IDFT delivers NUM.csim(Ωᴴ, X, Ω) unscaled, as n×n CPLX, and both complete; DFT8 and IDFT8 do the same on an 8×8
operand with the constants Ω8 and Ω8ᴴ and the divisor 64 = 0x4050000000000000 (43_dft.md R230 to R234). The cell numbers
of the divisions only key a free NaN (log 5). -/
def Obligations.DftCommandResults : Prop :=
  (∀ (s : State) (vd vs : Fin 8) (n : Nat) (e : Elems), s.v[vs] = some ⟨n, n, e⟩ →
    (∃ zs, exec (.dft vd vs) s = .next (s.committed vd ⟨n, n, .cplx zs⟩) ∧ zs.length = n * n ∧
      ∀ i, i < n * n → ∃ p, (numCsim n (numOmega n) e.toComplex (conjTranspose n (numOmega n)))[i]? = some p ∧
        zs[i]? = some ⟨fpDiv (2 * i) p.re (fpOfNat (n * n)), fpDiv (2 * i + 1) p.im (fpOfNat (n * n))⟩) ∧
    exec (.idft vd vs) s =
      .next (s.committed vd ⟨n, n, .cplx (numCsim n (conjTranspose n (numOmega n)) e.toComplex (numOmega n))⟩)) ∧
  ∀ (s : State) (vd vs : Fin 8) (e : Elems), s.v[vs] = some ⟨8, 8, e⟩ →
    (∃ zs, exec (.dft8 vd vs) s = .next (s.committed vd ⟨8, 8, .cplx zs⟩) ∧ zs.length = 64 ∧
      ∀ i, i < 64 → ∃ p, (numCsim 8 s.rom.omega8 e.toComplex s.rom.omega8H)[i]? = some p ∧
        zs[i]? = some ⟨fpDiv (2 * i) p.re 0x4050000000000000#64, fpDiv (2 * i + 1) p.im 0x4050000000000000#64⟩) ∧
    exec (.idft8 vd vs) s =
      .next (s.committed vd ⟨8, 8, .cplx (numCsim 8 s.rom.omega8H e.toComplex s.rom.omega8)⟩)

/-- On an 8×8 operand DFT8 is bit-identical to DFT and IDFT8 to IDFT (43_dft.md R233, R234). -/
def Obligations.Dft8IsDftAtOrderEight : Prop :=
  ∀ (s : State) (vd vs : Fin 8) (e : Elems), s.Inv → s.v[vs] = some ⟨8, 8, e⟩ →
    exec (.dft8 vd vs) s = exec (.dft vd vs) s ∧ exec (.idft8 vd vs) s = exec (.idft vd vs) s

/-- A REAL operand of DFT, IDFT, DFT8 or IDFT8 is read as the complex elements (x, +0.0): the same command on a register
that holds those complex elements writes the same VD (00_scope.md R20, 10_state.md R47). -/
def Obligations.RealOperandReadAsComplex : Prop :=
  ∀ (s : State) (vd vs : Fin 8) (n : Nat) (xs : List F64), s.v[vs] = some ⟨n, n, .real xs⟩ →
    ∀ i ∈ [Instr.dft vd vs, .idft vd vs, .dft8 vd vs, .idft8 vd vs],
      (i = .dft8 vd vs ∨ i = .idft8 vd vs → n = 8) →
      ∃ t u, exec i s = .next t ∧
        exec i { s with v := s.v.set vs (some ⟨n, n, .cplx (xs.map fun x => ⟨x, 0x0000000000000000#64⟩)⟩) } = .next u ∧
        t.v[vd] = u.v[vd] ∧ t.err = s.err ∧ u.err = s.err

/-- NUM.kron, NUM.rsim and NUM.csim map an all-zero operand, of either sign, to an all-zero result, whatever the basis; and
so every DCT and DFT command maps an operand whose elements are all zero, of either sign, to a result whose elements are
all zero, and completes (00_scope.md R30, 42_dct.md R211, R212, R215, 43_dft.md R235). -/
def Obligations.ZeroOperandGivesZeroTransform : Prop :=
  (∀ b m : List F64, (∀ x ∈ m, fpIsZero x = true) → ∀ y ∈ numKron b m, fpIsZero y = true) ∧
  (∀ l m r : List F64, (∀ x ∈ m, fpIsZero x = true) → ∀ y ∈ numRsim l m r, fpIsZero y = true) ∧
  (∀ (n : Nat) (l m r : List C64), (∀ z ∈ m, complexIsZero z = true) → ∀ y ∈ numCsim n l m r, complexIsZero y = true) ∧
  ∀ (s : State) (vd vs : Fin 8) (n : Nat) (e : Elems), 1 ≤ n → n ≤ 16 → s.v[vs] = some ⟨n, n, e⟩ → e.allZero →
    (∀ i ∈ [Instr.dft vd vs, .idft vd vs], ∃ zs : Elems, exec i s = .next (s.committed vd ⟨n, n, zs⟩) ∧ zs.allZero) ∧
    (n = 8 → ∀ i ∈ [Instr.dft8 vd vs, .idft8 vd vs],
      ∃ zs : Elems, exec i s = .next (s.committed vd ⟨8, 8, zs⟩) ∧ zs.allZero) ∧
    (n = 8 → e.isCplx = false → ∀ i ∈ [Instr.dctk vd vs, .idctk vd vs, .dcto vd vs, .idcto vd vs],
      ∃ ys : Elems, exec i s = .next (s.committed vd ⟨8, 8, ys⟩) ∧ ys.allZero)

/-! The quantization unit -/

/-- On an 8×8 REAL operand CENTER subtracts h(d) (128.0 at depth 8, 32768.0 at depth 16), QUANT divides by the QTAB entry
of the cell and rounds under ROUND_TIES, DEQUANT multiplies by it; each cell by itself, and each command completes
(44_quant.md R250 to R253, 00_scope.md R26). -/
def Obligations.ElementwiseCommandResults : Prop :=
  ∀ (s : State) (vd vs : Fin 8) (xs : List F64), s.v[vs] = some ⟨8, 8, .real xs⟩ →
    (∀ d, d = 8 ∨ d = 16 → ∃ ys, exec (.center vd vs d) s = .next (s.committed vd ⟨8, 8, .real ys⟩) ∧
      ys.length = xs.length ∧ ∀ i x, xs[i]? = some x →
        ys[i]? = some (fpSub i x (if d = 8 then 0x4060000000000000#64 else 0x40E0000000000000#64))) ∧
    (∃ ys, exec (.quant vd vs) s = .next (s.committed vd ⟨8, 8, .real ys⟩) ∧ ys.length = xs.length ∧
      ∀ i x q, xs[i]? = some x → s.rom.qtab[i]? = some q → ys[i]? = some (fpRnd s.ties i (fpDiv i x q))) ∧
    ∃ ys, exec (.dequant vd vs) s = .next (s.committed vd ⟨8, 8, .real ys⟩) ∧ ys.length = xs.length ∧
      ∀ i x q, xs[i]? = some x → s.rom.qtab[i]? = some q → ys[i]? = some (fpMul i x q)

/-- CENTER of an integer sample p in [0, 2^d - 1] is the exact integer p - 2^(d-1), and +0.0 when they are equal
(44_quant.md R251). -/
def Obligations.CenterOfSampleIsExact : Prop :=
  ∀ (s : State) (vd vs : Fin 8) (d : Nat) (xs : List F64), (d = 8 ∨ d = 16) → s.v[vs] = some ⟨8, 8, .real xs⟩ →
    ∃ ys : List F64, exec (.center vd vs d) s = .next (s.committed vd ⟨8, 8, .real ys⟩) ∧
      ∀ (i p : Nat), p < 2 ^ d → xs[i]? = some (fpOfNat p) →
        ∃ y, ys[i]? = some y ∧ fpFinite y = true ∧ fpRat y = (p : Rat) - 2 ^ (d - 1) ∧
          (p = 2 ^ (d - 1) → y = 0x0000000000000000#64)

/-- QUANT sends a coefficient below half its table value in magnitude to the zero of the coefficient's sign, under either
tie rule (44_quant.md R252). -/
def Obligations.SmallCoefficientsQuantizeToZero : Prop :=
  ∀ (s : State) (vd vs : Fin 8) (xs : List F64), s.Inv → s.v[vs] = some ⟨8, 8, .real xs⟩ →
    ∃ ys : List F64, exec (.quant vd vs) s = .next (s.committed vd ⟨8, 8, .real ys⟩) ∧
      ∀ (i : Nat) (x q : F64), xs[i]? = some x → s.rom.qtab[i]? = some q → fpFinite x = true → 2 * |fpRat x| < fpRat q →
        ys[i]? = some (x &&& 0x8000000000000000#64)

/-- RECON on an 8×8 REAL operand at a legal depth: the inverse similarity DCT, then per cell add h(d), round, times 257 at
depth 8 only, clip to 0 to 65535; a cell at +∞ ends as 65535, one at −∞ as 0 and a NaN as a NaN; it completes (44_quant.md
R254). -/
def Obligations.ReconCommandResult : Prop :=
  let at8 : RoundTies → Nat → F64 → F64 := fun ties i y => fpClip
    (fpMul i (fpRnd ties i (fpAdd i y 0x4060000000000000#64)) 0x4070100000000000#64)
    0x0000000000000000#64 0x40EFFFE000000000#64
  let at16 : RoundTies → Nat → F64 → F64 := fun ties i y => fpClip
    (fpRnd ties i (fpAdd i y 0x40E0000000000000#64)) 0x0000000000000000#64 0x40EFFFE000000000#64
  (∀ (s : State) (vd vs : Fin 8) (d : Nat) (xs : List F64), (d = 8 ∨ d = 16) → s.v[vs] = some ⟨8, 8, .real xs⟩ →
    ∃ ws, exec (.recon vd vs d) s = .next (s.committed vd ⟨8, 8, .real ws⟩) ∧ ws.length = 64 ∧
      ∀ i, i < 64 → ∃ y, (numRsim s.rom.c8III xs (transpose 8 s.rom.c8III))[i]? = some y ∧
        (d = 8 → ws[i]? = some (at8 s.ties i y)) ∧ (d = 16 → ws[i]? = some (at16 s.ties i y))) ∧
  ∀ (ties : RoundTies) (i : Nat) (y : F64),
    (unpack y = .inf false → at8 ties i y = 0x40EFFFE000000000#64 ∧ at16 ties i y = 0x40EFFFE000000000#64) ∧
    (unpack y = .inf true → at8 ties i y = 0x0000000000000000#64 ∧ at16 ties i y = 0x0000000000000000#64) ∧
    (fpIsNaN y = true → fpIsNaN (at8 ties i y) = true ∧ fpIsNaN (at16 ties i y) = true)

/-- RECON of an all-zero matrix is exactly 32896 = 128·257 in every cell at depth 8 and exactly 32768 at depth 16, for
every NUM and every tie rule (44_quant.md R254, R258, 00_scope.md R30). -/
def Obligations.ReconOfZeroBlock : Prop :=
  ∀ (s : State) (vd vs : Fin 8) (xs : List F64), s.v[vs] = some ⟨8, 8, .real xs⟩ → (∀ x ∈ xs, fpIsZero x = true) →
    exec (.recon vd vs 8) s =
      .next (s.committed vd ⟨8, 8, .real (List.replicate 64 0x40E0100000000000#64)⟩) ∧
    exec (.recon vd vs 16) s =
      .next (s.committed vd ⟨8, 8, .real (List.replicate 64 0x40E0000000000000#64)⟩)

/-- Every finite element that RECON or QDEC delivers is an integer from 0 to 65535 (-0.0 among the zeros), and at depth 8
a multiple of 257 (44_quant.md R258). -/
def Obligations.ReconstructedSamplesAreInRange : Prop :=
  ∀ (s t : State) (vd vs : Fin 8) (d : Nat) (xs : List F64), s.v[vs] = some ⟨8, 8, .real xs⟩ → (d = 8 ∨ d = 16) →
    ∀ i ∈ [Instr.recon vd vs d, .qdec vd vs d], exec i s = .next t →
      ∃ ws, t.v[vd] = some ⟨8, 8, .real ws⟩ ∧ ws.length = 64 ∧ ∀ w ∈ ws, fpFinite w = true →
        ∃ k : Nat, k ≤ 65535 ∧ fpRat w = k ∧ (d = 8 → 257 ∣ k)

/-- QENC delivers bit for bit what CENTER, DCTO and QUANT deliver one after the other through a scratch register, and QDEC
what DEQUANT and RECON deliver; all of them complete (44_quant.md R255, R256). -/
def Obligations.CompositeCommandsAreTheirSteps : Prop :=
  ∀ (s : State) (vd vr vs : Fin 8) (d : Nat) (xs : List F64), (d = 8 ∨ d = 16) → s.v[vs] = some ⟨8, 8, .real xs⟩ →
    (∃ a b c m, exec (.center vr vs d) s = .next a ∧ exec (.dcto vr vr) a = .next b ∧ exec (.quant vd vr) b = .next c ∧
      exec (.qenc vd vs d) s = .next (s.committed vd m) ∧ c.v[vd] = some m ∧ m.rows = 8 ∧ m.cols = 8) ∧
    ∃ a b m, exec (.dequant vr vs) s = .next a ∧ exec (.recon vd vr d) a = .next b ∧
      exec (.qdec vd vs d) s = .next (s.committed vd m) ∧ b.v[vd] = some m ∧ m.rows = 8 ∧ m.cols = 8

/-- In a build whose QTAB is all ones, QUANT then DEQUANT gives rnd of every element bit for bit, for every element that is
no NaN (44_quant.md R258). -/
def Obligations.IdentityTableRoundTrip : Prop :=
  ∀ (s : State) (va vb vs : Fin 8) (xs : List F64), s.rom.qtab = List.replicate 64 0x3FF0000000000000#64 →
    xs.length = 64 → s.v[vs] = some ⟨8, 8, .real xs⟩ →
    ∃ t u ys, exec (.quant va vs) s = .next t ∧ exec (.dequant vb va) t = .next u ∧
      u.v[vb] = some ⟨8, 8, .real ys⟩ ∧ ys.length = 64 ∧
      ∀ i x, xs[i]? = some x → fpIsNaN x = false → ys[i]? = some (fpRnd s.ties i x)

/-- DEQUANT then QUANT gives every integer matrix q with |q·QTAB| ≤ 2^53 back bit for bit, under every legal table and
either tie rule (44_quant.md R258). -/
def Obligations.QuantOfDequantIsIdentity : Prop :=
  ∀ (s : State) (va vb vs : Fin 8) (xs : List F64), s.Inv → s.v[vs] = some ⟨8, 8, .real xs⟩ →
    (∀ (i : Nat) (x q : F64), xs[i]? = some x → s.rom.qtab[i]? = some q →
      fpFinite x = true ∧ (∃ k : Int, fpRat x = k) ∧ |fpRat x * fpRat q| ≤ 2 ^ 53) →
    ∃ t u, exec (.dequant va vs) s = .next t ∧ exec (.quant vb va) t = .next u ∧
      u.v[vb] = some ⟨8, 8, .real xs⟩

/-- MKMASK clears bit i exactly when cell (i div 8, i mod 8) is in the policy's region and fewer than k cells of the region
come before it in raster order; the number of zero bits is min(k, kmax), kmax being 64, 36 and 16; every keep count
completes (45_mask.md R281, R282, 30_encoding.md R146). -/
def Obligations.MkmaskKeepsTheFirstCells : Prop :=
  ∀ (s : State) (j : Fin 4) (pol : Policy) (k : Nat), ∃ w, exec (.mkmask j pol k) s = .next (s.masked j w) ∧
    (∀ i, i < 64 → (w.getLsbD i = false ↔ pol.region (i / 8) (i % 8) = true ∧
      ((List.range i).filter fun a => pol.region (a / 8) (a % 8)).length < k)) ∧
    ((List.range 64).filter fun i => !w.getLsbD i).length =
      min k (match pol with | .lin => 64 | .diag => 36 | .quad => 16)

/-- The mask properties: the extreme words, kept sets that grow with k, min(k, kmax) zero bits, a mask applied twice, and
two masks applied one after the other (45_mask.md R285). -/
def Obligations.MaskProperties : Prop :=
  (∀ (s : State) (j : Fin 4),
    exec (.mkmask j .lin 0) s = .next (s.masked j 0xFFFFFFFFFFFFFFFF#64) ∧
    exec (.mkmask j .lin 64) s = .next (s.masked j 0x0000000000000000#64) ∧
    exec (.mkmask j .quad 16) s = .next (s.masked j 0xFFFFFFFFF0F0F0F0#64) ∧
    exec (.mkmask j .diag 36) s = .next (s.masked j 0xFEFCF8F0E0C08000#64) ∧
    exec (.mkmask j .diag 32) s = .next (s.masked j 0xFFFFFCF0E0C08000#64)) ∧
  (∀ (s : State) (j : Fin 4) (pol : Policy) (k : Nat), ∃ a b,
    exec (.mkmask j pol k) s = .next (s.masked j a) ∧ exec (.mkmask j pol (k + 1)) s = .next (s.masked j b) ∧
    (∀ i, i < 64 → a.getLsbD i = false → b.getLsbD i = false) ∧
    ((List.range 64).filter fun i => !a.getLsbD i).length =
      min k (match pol with | .lin => 64 | .diag => 36 | .quad => 16)) ∧
  (∀ (s : State) (va vb vs : Fin 8) (j : Fin 4) (xs : List F64) (w : BitVec 64),
    s.v[vs] = some ⟨8, 8, .real xs⟩ → s.masks[j] = some w →
    ∃ t u, exec (.applymask va vs j) s = .next t ∧ exec (.applymask vb va j) t = .next u ∧ u.v[vb] = t.v[va]) ∧
  ∀ (s : State) (va vb vs : Fin 8) (ja jb : Fin 4) (xs : List F64) (a b : BitVec 64),
    s.v[vs] = some ⟨8, 8, .real xs⟩ → s.masks[ja] = some a → s.masks[jb] = some b →
    ∃ t u v, exec (.applymask va vs ja) s = .next t ∧ exec (.applymask vb va jb) t = .next u ∧
      exec (.applymask vb vs ja) { s with masks := s.masks.set ja (some (a ||| b)) } = .next v ∧ u.v[vb] = v.v[vb]

/-- APPLYMASK on an 8×8 REAL operand and a valid mask: +0.0 where the mask bit is 1, whatever the cell held, and the other
cells bit for bit; MK is unchanged and the command completes (45_mask.md R283). -/
def Obligations.ApplymaskResult : Prop :=
  ∀ (s : State) (vd vs : Fin 8) (j : Fin 4) (xs : List F64) (w : BitVec 64),
    s.v[vs] = some ⟨8, 8, .real xs⟩ → s.masks[j] = some w →
    ∃ ys, exec (.applymask vd vs j) s = .next (s.committed vd ⟨8, 8, .real ys⟩) ∧ ys.length = xs.length ∧
      ∀ i x, xs[i]? = some x → ys[i]? = some (if w.getLsbD i then 0x0000000000000000#64 else x)

/-! Reset, invariant, progress -/

/-- The reset values: after a hard reset of any state, in the reset state and after a soft reset everything has the value
of the table, the interrupt output is deasserted, and a soft reset leaves the constant store unchanged while a hard reset
gives it its defining values; CONFIG stays constant; and when the reset input is the next event, with no command pending or
with one it gets ahead of, the step is the hard reset, the events after it still to come (10_state.md R81,
70_reset_and_hazards.md R340, R341). That State.reset holds the default table is the model's choice of a build (log 6), and
so is when the reset input lands (log 11). -/
def Obligations.ResetValues : Prop :=
  (∀ (s t : State), t = State.reset ∨ t = s.hardReset ∨ t = s.softReset →
    (∀ r : Fin 8, t.v[r] = none) ∧ (∀ j : Fin 4, t.masks[j] = none) ∧ t.pend = none ∧ t.lastcmd = 0#32 ∧
    t.wloRe = 0#32 ∧ t.wloIm = 0#32 ∧ t.rhiRe = 0#32 ∧ t.rhiIm = 0#32 ∧ t.statusWord = 0x00000000#32 ∧
    t.errcmd = 0#32 ∧ t.irqEn = false ∧ t.vsel = 0 ∧ t.idx = 0#16 ∧ t.irq = false) ∧
  (∀ (s t : State), t = State.reset ∨ t = s.hardReset →
    t.rom.c8II = numCosb .dctII 8 ∧ t.rom.c8III = numInv 8 t.rom.c8II ∧ t.rom.omega8 = numOmega 8 ∧
    t.rom.omega8H = conjTranspose 8 t.rom.omega8) ∧
  State.reset.rom.qtab = qtabDefault ∧ (∀ s : State, s.hardReset.rom.qtab = s.rom.qtab) ∧
  (∀ s : State, s.softReset.rom = s.rom ∧ s.softReset.configWord = s.configWord ∧
    s.hardReset.configWord = s.configWord) ∧
  ∀ (s : State) (rest : List HostEvent), s.script = .hardReset :: rest →
    (s.pend = none ∨ ∃ p, s.pend = some p ∧ p.wait ≠ 0) → step s = .next { s.hardReset with script := rest }

/-- The invariant holds right after reset, in the default build and in every build with a legal table (10_state.md R44,
R53, R57, R81). -/
def Obligations.InvariantAtReset : Prop :=
  State.reset.Inv ∧ ∀ (q : List F64) (ties : RoundTies), qtabLegal q → (State.resetOf q ties).Inv

/-- Every step keeps the invariant: legal shapes with as many elements as they say, the constant store at its defining
values, DONE = 0 and LASTCMD the pending word while a command is pending, MERR only beside ERR (10_state.md R44, R53, R63,
R65, 40_control.md R170). -/
def Obligations.InvariantKeptByStep : Prop := ∀ s t : State, s.Inv → step s = .next t → t.Inv

/-- A pending command is executed within its latency: after at most `wait` steps, which are host reads that leave every
register and the pending word as they are, a step is the execute step of that very word, and it ends with PEND clear and
DONE = 1; only a reset input among those events ends it before, by a hard reset (40_control.md R171, R179, 20_memory.md
R120). The bound is the model's free latency (log 2), and that a reset input can get ahead is its choice (log 11). -/
def Obligations.PendingCommandCompletes : Prop :=
  ∀ (s : State) (p : Pending), s.pend = some p → ∃ k u ans, k ≤ p.wait ∧ Host.Core.run core k s = .next u ∧
    ((.hardReset ∉ s.script.take k ∧
        u = { s with script := s.script.drop k, answers := ans, pend := some ⟨p.word, p.wait - k⟩ } ∧
        ∃ t, step u = u.execute p.word ∧ step u = .next t ∧ t.pend = none ∧ t.done = true) ∨
      (.hardReset ∈ s.script.take k ∧
        u = { s.hardReset with script := s.script.drop k, answers := ans }))

/-! The host's accesses -/

/-- The hold rule: an access proceeds at once while PEND is set exactly when it is a 32-bit read of IDENT, CONFIG or
STATUS; any other access stays the next event, unanswered, while the engine's step runs; a read that proceeds changes no
register and a STATUS read then has BUSY = 1; and with PEND clear the next access takes effect (20_memory.md R120). A
refused access is held too (log 8); how many reads proceed before the command completes is the free latency (log 2). -/
def Obligations.HoldRule : Prop :=
  (∀ a : Access, a.held = false ↔ a.op = .read ∧ a.width = 32 ∧ (a.off = 0x00 ∨ a.off = 0x04 ∨ a.off = 0x0C)) ∧
  (∀ (s : State) (p : Pending) (a : Access) (rest : List HostEvent), s.pend = some p →
    s.script = .access a :: rest → a.held = true →
    ∃ t, step s = s.execute p.word ∧ step s = .next t ∧ t.pend = none ∧ t.script = .access a :: rest ∧
      t.answers = s.answers) ∧
  (∀ (s : State) (p : Pending) (a : Access) (rest : List HostEvent), s.pend = some p →
    s.script = .access a :: rest → a.held = false → p.wait ≠ 0 →
    ∃ w, step s = .next { s with
        script := rest, answers := .data w :: s.answers, pend := some { p with wait := p.wait - 1 } } ∧
      (a.off = 0x00 → w = 0x44435407#32) ∧ (a.off = 0x04 → w = s.configWord) ∧
      (a.off = 0x0C → w = s.statusWord ∧ w.getLsbD 0 = true)) ∧
  ∀ (s : State) (a : Access) (rest : List HostEvent), s.pend = none → s.script = .access a :: rest →
    step s = .next { (State.serve { s with script := rest } a).1 with
      answers := (State.serve { s with script := rest } a).2 :: s.answers }

/-- A CMD write, once not held, makes w pending, sets LASTCMD, BUSY and clears DONE, and does nothing else; any word is
taken, and a CMD read then gives it back (40_control.md R170). The draw of the latency is the model's own (log 2). -/
def Obligations.CmdWriteIssues : Prop :=
  (∀ (s : State) (w : Word) (rest : List HostEvent), s.pend = none → s.script = .access (writeAt 0x08 w) :: rest →
    ∃ k, step s = .next { s with
      pend := some ⟨w, k⟩, lastcmd := w, done := false, script := rest, answers := .ack :: s.answers,
      issued := s.issued + 1 }) ∧
  ∀ (s : State), s.serve (readAt 0x08) = (s, .data s.lastcmd)

/-- The STATUS word: BUSY is "PEND is set", DONE, ERR, MERR, HERR, three zeros, ERRCODE with the code's number or 0, and
zeros; a STATUS read returns it and an ERRCMD read the first failing command's word or 0 (10_state.md R61, R62, R67, R68,
60_exceptions.md R300). -/
def Obligations.StatusWordFields : Prop :=
  ∀ s : State,
    s.statusWord.getLsbD 0 = s.pend.isSome ∧ s.statusWord.getLsbD 1 = s.done ∧
    s.statusWord.getLsbD 2 = s.err.isSome ∧ s.statusWord.getLsbD 3 = s.merr ∧ s.statusWord.getLsbD 4 = s.herr ∧
    s.statusWord.extractLsb' 5 3 = 0#3 ∧ s.statusWord.extractLsb' 16 16 = 0#16 ∧
    (s.err = none → s.statusWord.extractLsb' 8 8 = 0#8) ∧
    (∀ e w, s.err = some ⟨e, w⟩ → s.statusWord.extractLsb' 8 8 =
      match e with
      | .illegal => 1 | .shape => 2 | .length => 3 | .depth => 4 | .uninit => 5 | .type => 6 | .order => 7) ∧
    s.serve (readAt 0x0C) = (s, .data s.statusWord) ∧
    (s.err = none → s.serve (readAt 0x10) = (s, .data 0#32)) ∧
    ∀ e w, s.err = some ⟨e, w⟩ → s.serve (readAt 0x10) = (s, .data w)

/-- A CTRL write stores IRQ_EN from bit 0; with bit 1 it clears DONE, ERR, MERR, HERR, ERRCODE and ERRCMD; with bit 2 it
ends in a soft reset, which like a hard reset leaves IRQ_EN = 0; bits 31:3 are ignored; a CTRL read shows IRQ_EN in bit 0
and zeros elsewhere (10_state.md R69). -/
def Obligations.CtrlAccess : Prop :=
  (∀ (s : State) (w : Word), w.getLsbD 2 = false → w.getLsbD 1 = false →
    s.serve (writeAt 0x14 w) = ({ s with irqEn := w.getLsbD 0 }, .ack)) ∧
  (∀ (s : State) (w : Word), w.getLsbD 2 = false → w.getLsbD 1 = true →
    s.serve (writeAt 0x14 w) =
      ({ s with irqEn := w.getLsbD 0, done := false, err := none, merr := false, herr := false }, .ack)) ∧
  (∀ (s : State) (w : Word), w.getLsbD 2 = true → s.serve (writeAt 0x14 w) = (s.softReset, .ack)) ∧
  (∀ s : State, s.softReset.irqEn = false ∧ s.hardReset.irqEn = false) ∧
  ∀ s : State, s.serve (readAt 0x14) = (s, .data (if s.irqEn then 1#32 else 0#32))

/-- The interrupt output is the level IRQ_EN and DONE: it is asserted after every command exactly when IRQ_EN = 1 and when
IRQ_EN is set while DONE = 1; a CMD write, CTRL.CLR, clearing IRQ_EN and both resets deassert it; and no completion finds
DONE = 1 (60_exceptions.md R310, R313). -/
def Obligations.InterruptIsALevel : Prop :=
  (∀ s : State, s.irq = (s.irqEn && s.done)) ∧
  (∀ (s t : State) (p : Pending), s.Inv → s.pend = some p → s.execute p.word = .next t →
    s.done = false ∧ s.irq = false ∧ t.done = true ∧ t.irq = s.irqEn) ∧
  (∀ (s : State) (w : Word), (s.serve (writeAt 0x08 w)).1.irq = false) ∧
  (∀ (s : State) (w : Word), w.getLsbD 1 = true ∨ w.getLsbD 0 = false ∨ w.getLsbD 2 = true →
    (s.serve (writeAt 0x14 w)).1.irq = false) ∧
  (∀ (s : State) (w : Word), s.done = true → w.getLsbD 0 = true → w.getLsbD 1 = false → w.getLsbD 2 = false →
    (s.serve (writeAt 0x14 w)).1.irq = true) ∧
  ∀ s : State, s.hardReset.irq = false ∧ s.softReset.irq = false

/-- Only CTRL.CLR, CTRL.SRST and reset clear ERR, MERR and HERR, and only they change ERRCODE and ERRCMD once ERR = 1: no
command and no other access does (10_state.md R64 to R68). -/
def Obligations.StickyFlagsStay : Prop :=
  ∀ s t : State, step s = .next t → ¬s.clearsNext →
    (∀ r, s.err = some r → t.err = some r) ∧ (s.merr = true → t.merr = true) ∧ (s.herr = true → t.herr = true)

/-- DSEL, DIDX and DSHAPE. A DSEL write sets VSEL to bits 2:0 and a DIDX write IDX to bits 15:0, and nothing else; a read
gives the field with zeros above it; both are 0 after a reset; and no step changes VSEL but a DSEL write, nor IDX but a DIDX
write, or a reset. A DSHAPE write of an illegal shape sets HERR only; a legal one makes V[VSEL] valid with that shape and kind and every
element part +0.0, whatever bits 15:9, 29:25 and 30 are; a read gives 0 for an invalid register and else ROWS, COLS, VALID
and KIND with zeros between (10_state.md R73, R74, R75, 20_memory.md R111). -/
def Obligations.DshapeAccess : Prop :=
  (∀ (s : State) (w : Word),
    s.serve (writeAt 0x18 w) = ({ s with vsel := (w.extractLsb' 0 3).toFin }, .ack) ∧
    s.serve (writeAt 0x20 w) = ({ s with idx := w.extractLsb' 0 16 }, .ack) ∧
    (∃ x : Word, s.serve (readAt 0x18) = (s, .data x) ∧ (x.extractLsb' 0 3).toFin = s.vsel ∧
      x.extractLsb' 3 29 = 0#29) ∧
    (∃ x : Word, s.serve (readAt 0x20) = (s, .data x) ∧ x.extractLsb' 0 16 = s.idx ∧ x.extractLsb' 16 16 = 0#16)) ∧
  (∀ s t : State, t = State.reset ∨ t = s.hardReset ∨ t = s.softReset → t.vsel = 0 ∧ t.idx = 0#16) ∧
  (∀ s t : State, step s = .next t → ¬s.resetsNext →
    (t.vsel ≠ s.vsel → ∃ w rest, s.turn = .host (.access (writeAt 0x18 w)) rest) ∧
    (t.idx ≠ s.idx → ∃ w rest, s.turn = .host (.access (writeAt 0x20 w)) rest)) ∧
  (∀ (s : State) (w : Word),
    (w.extractLsb' 0 9).toNat = 0 ∨ (w.extractLsb' 16 9).toNat = 0 ∨
      256 < (w.extractLsb' 0 9).toNat * (w.extractLsb' 16 9).toNat →
    s.serve (writeAt 0x1C w) = ({ s with herr := true }, .ack)) ∧
  (∀ (s : State) (w : Word) (r c : Nat), (w.extractLsb' 0 9).toNat = r → (w.extractLsb' 16 9).toNat = c →
    1 ≤ r → 1 ≤ c → r * c ≤ 256 →
    (w.getLsbD 31 = false → s.serve (writeAt 0x1C w) =
      ({ s with v := s.v.set s.vsel (some ⟨r, c, .real (List.replicate (r * c) 0x0000000000000000#64)⟩) }, .ack)) ∧
    (w.getLsbD 31 = true → s.serve (writeAt 0x1C w) =
      ({ s with v := s.v.set s.vsel (some ⟨r, c, .cplx (List.replicate (r * c)
        ⟨0x0000000000000000#64, 0x0000000000000000#64⟩)⟩) }, .ack))) ∧
  (∀ s : State, s.v[s.vsel] = none → s.serve (readAt 0x1C) = (s, .data 0#32)) ∧
  ∀ (s : State) (m : Matrix), s.Inv → s.v[s.vsel] = some m → ∃ w : Word, s.serve (readAt 0x1C) = (s, .data w) ∧
    (w.extractLsb' 0 9).toNat = m.rows ∧ w.extractLsb' 9 7 = 0#7 ∧ (w.extractLsb' 16 9).toNat = m.cols ∧
    w.extractLsb' 25 5 = 0#5 ∧ w.getLsbD 30 = true ∧
    w.getLsbD 31 = match m.elems with | .real _ => false | .cplx _ => true

/-- Data-port writes. DRE_LO and DIM_LO write their latch only; DRE_HI stores {w, WLO_RE} as the real part of element IDX
of V[VSEL] and DIM_HI {w, WLO_IM} as the imaginary part of a CPLX one, and nothing else changes; where V[VSEL] is invalid
or IDX out of range, or for DIM_HI on a REAL register, only HERR is set (20_memory.md R112, R114). -/
def Obligations.ElementWrites : Prop :=
  ∀ (s : State) (w : Word),
    s.serve (writeAt 0x24 w) = ({ s with wloRe := w }, .ack) ∧
    s.serve (writeAt 0x2C w) = ({ s with wloIm := w }, .ack) ∧
    (s.portFails → s.serve (writeAt 0x28 w) = ({ s with herr := true }, .ack) ∧
      s.serve (writeAt 0x30 w) = ({ s with herr := true }, .ack)) ∧
    (∀ r c xs, s.v[s.vsel] = some ⟨r, c, .real xs⟩ →
      s.serve (writeAt 0x30 w) = ({ s with herr := true }, .ack) ∧
      (s.idx.toNat < r * c → s.serve (writeAt 0x28 w) =
        ({ s with v := s.v.set s.vsel (some ⟨r, c, .real (xs.set s.idx.toNat (w ++ s.wloRe))⟩) }, .ack))) ∧
    ∀ r c zs z, s.v[s.vsel] = some ⟨r, c, .cplx zs⟩ → s.idx.toNat < r * c → zs[s.idx.toNat]? = some z →
      s.serve (writeAt 0x28 w) =
        ({ s with v := s.v.set s.vsel (some ⟨r, c, .cplx (zs.set s.idx.toNat ⟨w ++ s.wloRe, z.im⟩)⟩) }, .ack) ∧
      s.serve (writeAt 0x30 w) =
        ({ s with v := s.v.set s.vsel (some ⟨r, c, .cplx (zs.set s.idx.toNat ⟨z.re, w ++ s.wloIm⟩)⟩) }, .ack)

/-- Data-port reads. DRE_LO returns bits 31:0 of the real part of element IDX of V[VSEL] and latches bits 63:32 for
DRE_HI; DIM_LO and DIM_HI the same for the imaginary part, which is +0.0 in a REAL register; where V[VSEL] is invalid or
IDX out of range a LO read returns 0, clears its latch and sets HERR (20_memory.md R113, R115). -/
def Obligations.ElementReads : Prop :=
  ∀ s : State,
    s.serve (readAt 0x28) = (s, .data s.rhiRe) ∧ s.serve (readAt 0x30) = (s, .data s.rhiIm) ∧
    (s.portFails → s.serve (readAt 0x24) = ({ s with rhiRe := 0#32, herr := true }, .data 0#32) ∧
      s.serve (readAt 0x2C) = ({ s with rhiIm := 0#32, herr := true }, .data 0#32)) ∧
    (∀ r c xs x, s.v[s.vsel] = some ⟨r, c, .real xs⟩ → s.idx.toNat < r * c → xs[s.idx.toNat]? = some x →
      s.serve (readAt 0x24) = ({ s with rhiRe := x.extractLsb' 32 32 }, .data (x.extractLsb' 0 32)) ∧
      s.serve (readAt 0x2C) = ({ s with rhiIm := 0#32 }, .data 0#32)) ∧
    ∀ r c zs z, s.v[s.vsel] = some ⟨r, c, .cplx zs⟩ → s.idx.toNat < r * c → zs[s.idx.toNat]? = some z →
      s.serve (readAt 0x24) = ({ s with rhiRe := z.re.extractLsb' 32 32 }, .data (z.re.extractLsb' 0 32)) ∧
      s.serve (readAt 0x2C) = ({ s with rhiIm := z.im.extractLsb' 32 32 }, .data (z.im.extractLsb' 0 32))

/-- An element part written LO then HI reads back LO then HI: after DRE_LO and DRE_HI writes at a valid element the four
reads give the written halves, and nothing but that element part, the latches WLO_RE and RHI_RE has changed; the same for
the imaginary part of a CPLX register (20_memory.md R106, R112 to R116). -/
def Obligations.ElementRoundTrip : Prop :=
  ∀ (s : State) (m : Matrix) (lo hi : Word), s.Inv → s.v[s.vsel] = some m → s.idx.toNat < m.rows * m.cols →
    (∃ a b c, ∃ m' : Matrix, s.serve (writeAt 0x24 lo) = (a, .ack) ∧ a.serve (writeAt 0x28 hi) = (b, .ack) ∧
      b.serve (readAt 0x24) = (c, .data lo) ∧ c.serve (readAt 0x28) = (c, .data hi) ∧
      c = { s with v := s.v.set s.vsel (some m'), wloRe := lo, rhiRe := hi } ∧
      m'.rows = m.rows ∧ m'.cols = m.cols ∧ m'.elems.isCplx = m.elems.isCplx ∧
      ∀ i, m'.elems.imAt i = m.elems.imAt i ∧ (i ≠ s.idx.toNat → m'.elems.reAt i = m.elems.reAt i)) ∧
    (m.elems.isCplx = true →
      ∃ a b c, ∃ m' : Matrix, s.serve (writeAt 0x2C lo) = (a, .ack) ∧ a.serve (writeAt 0x30 hi) = (b, .ack) ∧
      b.serve (readAt 0x2C) = (c, .data lo) ∧ c.serve (readAt 0x30) = (c, .data hi) ∧
      c = { s with v := s.v.set s.vsel (some m'), wloIm := lo, rhiIm := hi } ∧
      m'.rows = m.rows ∧ m'.cols = m.cols ∧ m'.elems.isCplx = true ∧
      ∀ i, m'.elems.reAt i = m.elems.reAt i ∧ (i ≠ s.idx.toNat → m'.elems.imAt i = m.elems.imAt i))

/-- Host access errors. An access of another width or alignment is answered by a bus error; a write of a read-only
register, an illegal DSHAPE, a DRE_HI or DIM_HI write without an element to write, and a read of an invalid mask register
each set HERR and change nothing else; a failing read returns 0, and a failing DRE_LO or DIM_LO read also clears its latch.
None raises a command error, and HERR is sticky: no access but a CTRL write clears it (20_memory.md R103, R117). That a
refused access is a next state and no fault of the engine is the model's reading (log 7). -/
def Obligations.HostAccessErrors : Prop :=
  (∀ (s : State) (a : Access), a.width ≠ 32 ∨ a.off.toNat % 4 ≠ 0 →
    s.serve a = ({ s with herr := true }, .busError)) ∧
  (∀ (s : State) (w : Word), ∀ off ∈ [0x00#8, 0x04, 0x0C, 0x10, 0x34, 0x38, 0x40, 0x44, 0x48, 0x4C, 0x50, 0x54, 0x58, 0x5C],
    s.serve (writeAt off w) = ({ s with herr := true }, .ack)) ∧
  (∀ (s : State) (w : Word),
    (w.extractLsb' 0 9).toNat = 0 ∨ (w.extractLsb' 16 9).toNat = 0 ∨
      256 < (w.extractLsb' 0 9).toNat * (w.extractLsb' 16 9).toNat →
    s.serve (writeAt 0x1C w) = ({ s with herr := true }, .ack)) ∧
  (∀ (s : State) (w : Word), s.portFails →
    s.serve (writeAt 0x28 w) = ({ s with herr := true }, .ack) ∧
    s.serve (writeAt 0x30 w) = ({ s with herr := true }, .ack) ∧
    s.serve (readAt 0x24) = ({ s with rhiRe := 0#32, herr := true }, .data 0#32) ∧
    s.serve (readAt 0x2C) = ({ s with rhiIm := 0#32, herr := true }, .data 0#32)) ∧
  (∀ (s : State) (w : Word) (m : Matrix), s.v[s.vsel] = some m → m.elems.isCplx = false →
    s.serve (writeAt 0x30 w) = ({ s with herr := true }, .ack)) ∧
  (∀ (s : State) (j : Fin 4), s.masks[j] = none →
    s.serve (readAt (BitVec.ofNat 8 (0x40 + 8 * j))) = ({ s with herr := true }, .data 0#32) ∧
    s.serve (readAt (BitVec.ofNat 8 (0x44 + 8 * j))) = ({ s with herr := true }, .data 0#32)) ∧
  ∀ (s : State) (a : Access), s.herr = true → (∀ w, a ≠ writeAt 0x14 w) → (s.serve a).1.herr = true

/-- IDENT reads 0x44435407; CONFIG reads D_MAX = 16, NV = 8, NK = 4, TIES and QSTD; MKj_LO and MKj_HI read the halves of a
valid MK[j], 0 with HERR for an invalid one; VVALID and MKVALID read the valid bits; a write of any of them sets HERR only;
a reserved offset reads 0 and ignores writes (10_state.md R70, R71, R78, R79, R80). -/
def Obligations.ReadOnlyRegisters : Prop :=
  ∀ (s : State) (w : Word),
    s.serve (readAt 0x00) = (s, .data 0x44435407#32) ∧
    (∃ x : Word, s.serve (readAt 0x04) = (s, .data x) ∧ x.extractLsb' 0 8 = 16#8 ∧ x.extractLsb' 8 4 = 8#4 ∧
      x.extractLsb' 12 4 = 4#4 ∧ (x.getLsbD 16 = true ↔ s.ties = .away) ∧
      (x.getLsbD 17 = true ↔ s.rom.qtab = qtabDefault) ∧ x.extractLsb' 18 14 = 0#14 ∧
      (s.ties = .even → s.rom.qtab = qtabDefault → x = 0x00024810#32)) ∧
    (∀ j : Fin 4,
      (∀ m, s.masks[j] = some m →
        s.serve (readAt (BitVec.ofNat 8 (0x40 + 8 * j))) = (s, .data (m.extractLsb' 0 32)) ∧
        s.serve (readAt (BitVec.ofNat 8 (0x44 + 8 * j))) = (s, .data (m.extractLsb' 32 32))) ∧
      (s.masks[j] = none →
        s.serve (readAt (BitVec.ofNat 8 (0x40 + 8 * j))) = ({ s with herr := true }, .data 0#32) ∧
        s.serve (readAt (BitVec.ofNat 8 (0x44 + 8 * j))) = ({ s with herr := true }, .data 0#32)) ∧
      s.serve (writeAt (BitVec.ofNat 8 (0x40 + 8 * j)) w) = ({ s with herr := true }, .ack) ∧
      s.serve (writeAt (BitVec.ofNat 8 (0x44 + 8 * j)) w) = ({ s with herr := true }, .ack)) ∧
    (∃ x : Word, s.serve (readAt 0x34) = (s, .data x) ∧ (∀ i : Fin 8, x.getLsbD i = (s.v[i]).isSome) ∧
      x.extractLsb' 8 24 = 0#24) ∧
    (∃ x : Word, s.serve (readAt 0x38) = (s, .data x) ∧ (∀ j : Fin 4, x.getLsbD j = (s.masks[j]).isSome) ∧
      x.extractLsb' 4 28 = 0#28) ∧
    (∀ off ∈ [0x00#8, 0x04, 0x34, 0x38], s.serve (writeAt off w) = ({ s with herr := true }, .ack)) ∧
    ∀ off : BitVec 8, off.toNat % 4 = 0 → off = 0x3C ∨ 0x60 ≤ off.toNat →
      s.serve (readAt off) = (s, .data 0#32) ∧ s.serve (writeAt off w) = (s, .ack)

/-- Reading the same offset twice gives the same value twice and leaves the state the first read left (20_memory.md
R109). -/
def Obligations.ReadsAreIdempotent : Prop :=
  ∀ (s : State) (off : BitVec 8), (s.serve (readAt off)).1.serve (readAt off) = s.serve (readAt off)

/-- No step changes the constant store, QTAB included: not a command, not an access, not a soft reset; a hard reset gives
it the values it had (10_state.md R53, R57). -/
def Obligations.ConstantStoreNeverChanges : Prop :=
  ∀ s t : State, s.Inv → step s = .next t → t.rom = s.rom ∧ t.ties = s.ties

/-- Over all steps: a mask register changes only by a MKMASK that names it or by a reset; and a valid bit of V, once set,
is cleared only by a reset (10_state.md R46, R51, R52). -/
def Obligations.OnlyMkmaskAndResetWriteMasks : Prop :=
  ∀ s t : State, step s = .next t → ¬s.resetsNext →
    (∀ j : Fin 4, t.masks[j] ≠ s.masks[j] → ∃ w pol k, s.turn = .engine w ∧ decode w = .ok (.mkmask j pol k)) ∧
    (∀ r : Fin 8, (s.v[r]).isSome = true → (t.v[r]).isSome = true) ∧
    ∀ j : Fin 4, (s.masks[j]).isSome = true → (t.masks[j]).isSome = true

/-! Element arithmetic -/

/-- Addition, subtraction, multiplication and division of finite elements are correctly rounded to nearest, ties to even,
with subnormals kept: the result is fl of the exact real result, or the infinity of its sign from 2^1024 - 2^970 on
(00_scope.md R16, R17, R21). That point, from which IEEE 754 rounds to infinity, is taken from the standard (log 23). -/
def Obligations.ArithmeticIsCorrectlyRounded : Prop :=
  ∀ (cell : Nat) (a b : F64), fpFinite a = true → fpFinite b = true →
    let rounded : ℝ → F64 → Prop := fun x y =>
      (|x| < 2 ^ 1024 - 2 ^ 970 → isFl x y) ∧
      (2 ^ 1024 - 2 ^ 970 ≤ x → y = 0x7FF0000000000000#64) ∧ (x ≤ -(2 ^ 1024 - 2 ^ 970) → y = 0xFFF0000000000000#64)
    rounded (fpReal a + fpReal b) (fpAdd cell a b) ∧ rounded (fpReal a - fpReal b) (fpSub cell a b) ∧
    rounded (fpReal a * fpReal b) (fpMul cell a b) ∧ (fpReal b ≠ 0 → rounded (fpReal a / fpReal b) (fpDiv cell a b))

/-- NaN, infinities and the sign of zero. A NaN operand gives a NaN, and so do ∞ - ∞, 0 × ∞, 0 / 0 and ∞ / ∞; any other
sum or difference with an infinity is that infinity, any other product with one and a quotient of one by a finite element
is the infinity of the signs, and a finite element by an infinity is the zero of the signs; a finite nonzero element divided
by a zero is the infinity of the signs; an exact zero sum or difference is -0.0 only of two zeros that enter it negative;
and every product and quotient that is no NaN has the sign of the signs, a zero one too (00_scope.md R16, R18, R19,
60_exceptions.md R308). The cases are those of IEEE 754, taken from the standard (log 23). -/
def Obligations.SpecialValues : Prop :=
  ∀ (cell : Nat) (a b : F64),
    (fpIsNaN a = true ∨ fpIsNaN b = true →
      fpIsNaN (fpAdd cell a b) = true ∧ fpIsNaN (fpSub cell a b) = true ∧
      fpIsNaN (fpMul cell a b) = true ∧ fpIsNaN (fpDiv cell a b) = true) ∧
    (∀ p q, unpack a = .inf p → unpack b = .inf q →
      (p ≠ q → fpIsNaN (fpAdd cell a b) = true ∧ unpack (fpSub cell a b) = .inf p) ∧
      (p = q → fpIsNaN (fpSub cell a b) = true ∧ unpack (fpAdd cell a b) = .inf p) ∧
      unpack (fpMul cell a b) = .inf (p != q) ∧ fpIsNaN (fpDiv cell a b) = true) ∧
    (∀ p, unpack a = .inf p → fpFinite b = true →
      unpack (fpAdd cell a b) = .inf p ∧ unpack (fpAdd cell b a) = .inf p ∧
      unpack (fpSub cell a b) = .inf p ∧ unpack (fpSub cell b a) = .inf (!p) ∧
      (fpIsZero b = false →
        unpack (fpMul cell a b) = .inf (p != b.msb) ∧ unpack (fpMul cell b a) = .inf (b.msb != p)) ∧
      (fpIsZero b = true → fpIsNaN (fpMul cell a b) = true ∧ fpIsNaN (fpMul cell b a) = true) ∧
      unpack (fpDiv cell a b) = .inf (p != b.msb) ∧
      fpDiv cell b a = if b.msb != p then 0x8000000000000000#64 else 0x0000000000000000#64) ∧
    (fpIsZero a = true → fpIsZero b = true → fpIsNaN (fpDiv cell a b) = true) ∧
    (fpFinite a = true → fpFinite b = true →
      (fpIsZero a = false → fpIsZero b = true → unpack (fpDiv cell a b) = .inf (a.msb != b.msb)) ∧
      (fpReal a + fpReal b = 0 →
        fpAdd cell a b = if a.msb && b.msb then 0x8000000000000000#64 else 0x0000000000000000#64) ∧
      (fpReal a - fpReal b = 0 →
        fpSub cell a b = if a.msb && !b.msb then 0x8000000000000000#64 else 0x0000000000000000#64) ∧
      (fpIsZero a = true ∨ fpIsZero b = true →
        fpMul cell a b = if a.msb != b.msb then 0x8000000000000000#64 else 0x0000000000000000#64) ∧
      (fpIsZero a = true → fpIsZero b = false →
        fpDiv cell a b = if a.msb != b.msb then 0x8000000000000000#64 else 0x0000000000000000#64)) ∧
    (fpIsNaN (fpMul cell a b) = false → (fpMul cell a b).msb = (a.msb != b.msb)) ∧
    (fpIsNaN (fpDiv cell a b) = false → (fpDiv cell a b).msb = (a.msb != b.msb))

/-- rnd gives the nearest integer, a half to the even neighbour under EVEN and to the one of larger magnitude under AWAY,
with the sign of x when the result is zero; it keeps an infinity, and of a NaN it makes a NaN. clip gives lo below lo, hi
above hi and x otherwise, so a NaN and -0.0 pass (00_scope.md R24, R25). -/
def Obligations.RoundAndClip : Prop :=
  (∀ (ties : RoundTies) (cell : Nat) (x : F64),
    (fpFinite x = true → fpFinite (fpRnd ties cell x) = true ∧ ∃ k : ℤ, fpReal (fpRnd ties cell x) = k ∧
      |fpReal x - k| ≤ 1 / 2 ∧
      (|fpReal x - k| = 1 / 2 → (ties = .even → Even k) ∧ (ties = .away → |fpReal x| < |(k : ℝ)|)) ∧
      (k = 0 → fpRnd ties cell x = x &&& 0x8000000000000000#64)) ∧
    (∀ p, unpack x = .inf p → fpRnd ties cell x = x) ∧ (fpIsNaN x = true → fpIsNaN (fpRnd ties cell x) = true)) ∧
  (∀ x lo hi : F64, fpFinite lo = true → fpFinite hi = true →
    (fpFinite x = true → fpReal x < fpReal lo → fpClip x lo hi = lo) ∧
    (fpFinite x = true → fpReal lo ≤ fpReal x → fpReal hi < fpReal x → fpClip x lo hi = hi) ∧
    (fpFinite x = true → fpReal lo ≤ fpReal x → fpReal x ≤ fpReal hi → fpClip x lo hi = x) ∧
    (unpack x = .inf true → fpClip x lo hi = lo) ∧ (unpack x = .inf false → fpClip x lo hi = hi) ∧
    (fpIsNaN x = true → fpClip x lo hi = x)) ∧
  fpClip 0x8000000000000000#64 0x0000000000000000#64 0x40EFFFE000000000#64 = 0x8000000000000000#64

/-! The exact mathematics -/

/-- RECON of a matrix whose only nonzero coefficient is the DC coefficient 8·k, for an integer k from -128 to 127, at depth
8 is exactly (k + 128)·257 in every cell, for every NUM that meets P-ACC at this operand with EPS ≤ 2^-13 and under either
tie rule (44_quant.md R254, 42_dct.md R215, 00_scope.md R29). P-ACC is a hypothesis that the statement names. -/
def Obligations.ReconOfDcCoefficient : Prop :=
  ∀ (eps : ℝ) (s : State) (vd vs : Fin 8) (k : ℤ) (x : F64) (xs : List F64),
    xs = x :: List.replicate 63 0x0000000000000000#64 → AccRsimInverse eps xs → eps ≤ 1 / 2 ^ 13 → s.Inv →
    -128 ≤ k → k ≤ 127 → fpFinite x = true → fpReal x = 8 * k → s.v[vs] = some ⟨8, 8, .real xs⟩ →
    ∃ ws, exec (.recon vd vs 8) s = .next (s.committed vd ⟨8, 8, .real ws⟩) ∧ ws.length = 64 ∧
      ∀ w ∈ ws, fpFinite w = true ∧ fpReal w = (k + 128) * 257

/-- DCTK and DCTO of one operand agree within twice the P-ACC bound in every cell, because their exact counterparts are
equal; bit equality is not claimed (42_dct.md R211, R214, R219, 00_scope.md R29). P-ACC at this operand is a hypothesis that
the statement names. -/
def Obligations.DctFormsAgree : Prop :=
  ∀ (eps S : ℝ) (s : State) (vd vs : Fin 8) (xs : List F64), s.Inv → s.v[vs] = some ⟨8, 8, .real xs⟩ →
    realOperandBound xs S → AccKronForward eps xs → AccRsimForward eps xs →
    ∃ as bs : List F64, exec (.dctk vd vs) s = .next (s.committed vd ⟨8, 8, .real as⟩) ∧
      exec (.dcto vd vs) s = .next (s.committed vd ⟨8, 8, .real bs⟩) ∧
      ∀ i, i < 64 → ∃ a b, as[i]? = some a ∧ bs[i]? = some b ∧ fpFinite a = true ∧ fpFinite b = true ∧
        |fpReal a - fpReal b| ≤ 2 * eps * S

/-- The exact Fourier matrix is unitary up to the factor n and symmetric, and so the exact inverse DFT of the exact forward
DFT, scaled by 1/n², is the identity on every n×n matrix, and on the elements of a register, with the very products that
P-ACC measures NUM.csim against (41_basis.md R198, R203, 43_dft.md R231, R232, R235). -/
def Obligations.ExactFourierInverse : Prop :=
  (∀ n k l : ℕ, k < n → l < n →
    (∑ a ∈ Finset.range n, exactOmega n k a * exactConjT (exactOmega n) a l = if k = l then (n : ℂ) else 0) ∧
    (∑ a ∈ Finset.range n, exactConjT (exactOmega n) k a * exactOmega n a l = if k = l then (n : ℂ) else 0) ∧
    exactOmega n k l = exactOmega n l k) ∧
  (∀ (n : ℕ) (m : ℕ → ℕ → ℂ) (k l : ℕ), k < n → l < n →
    exactProduct n (exactConjT (exactOmega n))
      (fun i j => exactProduct n (exactOmega n) m (exactConjT (exactOmega n)) i j / (n : ℂ) ^ 2)
      (exactOmega n) k l = m k l) ∧
  ∀ (n : ℕ) (m : List C64) (k l : ℕ), k < n → l < n →
    exactProduct n (exactConjT (exactOmega n))
      (fun i j => exactCsim n (exactOmega n) m (exactConjT (exactOmega n)) (i * n + j) / (n : ℂ) ^ 2)
      (exactOmega n) k l = fpComplex (m.getD (k * n + l) default)

end
end

