-- ==== Sys2Proof/Laws/Binary64.lean ====
section
/-! SUPPORT. The binary64 layer, each operation said once: what a packed pattern unpacks to, the order of magnitudes, and
that rounding picks the nearest representable magnitude, a tie going to the even pattern. -/

namespace Sys2Proof.Machine

/-- The units of 2^-1074 that a finite magnitude pattern stands for. -/
def unitsOf (mag : Nat) : Nat :=
  if mag < 2 ^ 52 then mag else (2 ^ 52 + mag % 2 ^ 52) * 2 ^ (mag / 2 ^ 52 - 1)

theorem packMag_toNat (neg : Bool) (mag : Nat) (h : mag < 2 ^ 63) :
    (packMag neg mag).toNat = neg.toNat * 2 ^ 63 + mag := by
  rw [packMag, BitVec.toNat_append, BitVec.toNat_ofNat, Nat.mod_eq_of_lt h, Nat.shiftLeft_eq, Nat.mul_comm,
    ← Nat.two_pow_add_eq_or_of_lt h, Nat.mul_comm]
  cases neg <;> simp

theorem packMag_msb (neg : Bool) (mag : Nat) (h : mag < 2 ^ 63) : (packMag neg mag).msb = neg := by
  rw [BitVec.msb_eq_decide, packMag_toNat neg mag h]
  cases neg <;> simp
  omega

theorem packMag_exponent (neg : Bool) (mag : Nat) (h : mag < 2 ^ 63) :
    ((packMag neg mag).extractLsb' 52 11).toNat = mag / 2 ^ 52 := by
  rw [BitVec.extractLsb'_toNat, packMag_toNat neg mag h, Nat.shiftRight_eq_div_pow]
  cases neg <;> simp
  all_goals omega

theorem packMag_fraction (neg : Bool) (mag : Nat) (h : mag < 2 ^ 63) :
    ((packMag neg mag).extractLsb' 0 52).toNat = mag % 2 ^ 52 := by
  rw [BitVec.extractLsb'_toNat, packMag_toNat neg mag h]
  cases neg <;> simp
  omega

/-- A finite magnitude unpacks to its units. -/
theorem unpack_packMag (neg : Bool) {mag : Nat} (h : mag < infMag) :
    unpack (packMag neg mag) = .fin neg (unitsOf mag) := by
  have h63 : mag < 2 ^ 63 := by unfold infMag at h; omega
  have he : mag / 2 ^ 52 < 2047 := by unfold infMag at h; omega
  simp only [unpack, packMag_exponent neg mag h63, packMag_fraction neg mag h63, packMag_msb neg mag h63]
  rw [if_neg (by omega)]
  unfold unitsOf
  split
  · rw [if_pos (by omega), Nat.mod_eq_of_lt (by omega)]
  · rw [if_neg (by omega)]

/-- The largest magnitude unpacks to an infinity. -/
theorem unpack_packMag_inf (neg : Bool) : unpack (packMag neg infMag) = .inf neg := by
  cases neg <;> decide +kernel

/-- Every finite pattern is packed from a finite magnitude. -/
theorem finite_packMag {x : F64} {neg : Bool} {m : Nat} (h : unpack x = .fin neg m) :
    ∃ mag, mag < infMag ∧ x = packMag neg mag ∧ m = unitsOf mag := by
  have hx : x = packMag x.msb (x.toNat % 2 ^ 63) := by
    apply BitVec.eq_of_toNat_eq
    rw [packMag_toNat _ _ (Nat.mod_lt _ (by norm_num))]
    have := x.isLt
    rw [BitVec.msb_eq_decide]
    by_cases hc : 2 ^ (64 - 1) ≤ x.toNat
    · rw [decide_eq_true hc, Bool.toNat_true]; omega
    · rw [decide_eq_false hc, Bool.toNat_false]; omega
  have h63 : x.toNat % 2 ^ 63 < 2 ^ 63 := Nat.mod_lt _ (by norm_num)
  have hlt : x.toNat % 2 ^ 63 < infMag := by
    by_contra hc
    rw [hx] at h
    simp only [unpack, packMag_exponent _ _ h63, packMag_msb _ _ h63] at h
    rw [if_pos (by unfold infMag at hc; omega)] at h
    split at h <;> cases h
  rw [hx, unpack_packMag _ hlt] at h
  injection h with h1 h2
  exact ⟨_, hlt, by rw [← h1]; exact hx, h2.symm⟩

/-- `roundHalfEven` picks a nearest integer, and an even one when another is as near. -/
theorem roundHalfEven_nearest (n : Nat) {d : Nat} (hd : 0 < d) (j : Int) :
    |(roundHalfEven n d : Int) * d - n| < |j * d - n| ∨ j = roundHalfEven n d ∨
      (|(roundHalfEven n d : Int) * d - n| = |j * d - n| ∧ roundHalfEven n d % 2 = 0) := by
  have hdm := Nat.div_add_mod n d
  have hr := Nat.mod_lt n hd
  generalize hq : n / d = q at hdm
  generalize hr' : n % d = r at hdm hr
  have hn : (n : Int) = d * q + r := by exact_mod_cast hdm.symm
  have hd' : (0 : Int) < d := by exact_mod_cast hd
  have key : ∀ k : Nat, (k = q ∨ k = q + 1) →
      (k = q → 2 * r ≤ d) → (k = q + 1 → d ≤ 2 * r) → (2 * r = d → k % 2 = 0) →
      |(k : Int) * d - n| < |j * d - n| ∨ j = k ∨ (|(k : Int) * d - n| = |j * d - n| ∧ k % 2 = 0) := by
    intro k hk h1 h2 h3
    by_cases hjk : j = k
    · exact .inr (.inl hjk)
    have hle : |(k : Int) * d - n| ≤ |j * d - n| ∧ (2 * r ≠ d → |(k : Int) * d - n| < |j * d - n|) := by
      rcases hk with rfl | rfl
      · have h1' := h1 rfl
        have e1 : ((k : Int) * d - n) = -(r : Int) := by rw [hn]; ring
        rw [e1, abs_neg, abs_of_nonneg (by positivity)]
        rcases lt_or_gt_of_ne hjk with hj | hj
        · have : (j : Int) * d ≤ (k - 1) * d := by nlinarith
          have e2 : j * d - n < 0 := by rw [hn]; nlinarith
          rw [abs_of_neg e2]
          constructor
          · rw [hn]; nlinarith
          · intro _; rw [hn]; nlinarith
        · have : ((k : Int) + 1) * d ≤ j * d := by nlinarith
          have e2 : 0 ≤ j * d - n := by rw [hn]; nlinarith
          rw [abs_of_nonneg e2]
          constructor
          · rw [hn]; have : (2 * r : Int) ≤ d := by exact_mod_cast h1'
            nlinarith
          · intro hne; rw [hn]
            have : (2 * r : Int) < d := by exact_mod_cast lt_of_le_of_ne h1' hne
            nlinarith
      · have h2' := h2 rfl
        have e1 : (((q + 1 : Nat) : Int) * d - n) = (d : Int) - r := by rw [hn]; push_cast; ring
        rw [e1, abs_of_nonneg (by have : (r : Int) < d := by exact_mod_cast hr
                                  linarith)]
        rcases lt_or_gt_of_ne hjk with hj | hj
        · have hj' : j ≤ q := by push_cast at hj; omega
          have : (j : Int) * d ≤ q * d := by nlinarith
          have e2 : j * d - n ≤ 0 := by rw [hn]; nlinarith
          rw [abs_of_nonpos e2]
          constructor
          · rw [hn]; have : (d : Int) ≤ 2 * r := by exact_mod_cast h2'
            nlinarith
          · intro hne; rw [hn]
            have : (d : Int) < 2 * r := by exact_mod_cast lt_of_le_of_ne h2' (Ne.symm hne)
            nlinarith
        · have hj' : (q : Int) + 2 ≤ j := by push_cast at hj; omega
          have : ((q : Int) + 2) * d ≤ j * d := by nlinarith
          have e2 : 0 ≤ j * d - n := by
            rw [hn]; have : (r : Int) < d := by exact_mod_cast hr
            nlinarith
          rw [abs_of_nonneg e2]
          constructor
          · rw [hn]; nlinarith
          · intro _; rw [hn]; nlinarith
    by_cases ht : 2 * r = d
    · rcases hle.1.lt_or_eq with h | h
      · exact .inl h
      · exact .inr (.inr ⟨h, h3 ht⟩)
    · exact .inl (hle.2 ht)
  apply key
  · simp only [roundHalfEven, hq, hr']; split_ifs <;> simp
  all_goals (simp only [roundHalfEven, hq, hr']; split_ifs <;> intros <;> omega)

/-- `roundHalfEven` is between the floor and the floor plus one. -/
theorem roundHalfEven_bounds (n d : Nat) : n / d ≤ roundHalfEven n d ∧ roundHalfEven n d ≤ n / d + 1 := by
  simp only [roundHalfEven]; split_ifs <;> omega

/-- A number that d divides is not moved. -/
theorem roundHalfEven_mul (q : Nat) {d : Nat} (hd : 0 < d) : roundHalfEven (q * d) d = q := by
  simp only [roundHalfEven, Nat.mul_mod_left, Nat.mul_div_cancel q hd]
  rw [if_pos (by omega)]

/-- A magnitude written as a shift and a significand stands for the shifted significand. -/
theorem unitsOf_shift {s k : Nat} (h : s = 0 ∨ 2 ^ 52 ≤ k) (hk : k ≤ 2 ^ 53) :
    unitsOf (s * 2 ^ 52 + k) = k * 2 ^ s := by
  unfold unitsOf
  by_cases hlt : s * 2 ^ 52 + k < 2 ^ 52
  · have hs : s = 0 := by omega
    subst hs; rw [if_pos hlt]; simp
  · rw [if_neg hlt]
    by_cases h53 : k = 2 ^ 53
    · subst h53
      have e1 : (s * 2 ^ 52 + 2 ^ 53) % 2 ^ 52 = 0 := by omega
      have e2 : (s * 2 ^ 52 + 2 ^ 53) / 2 ^ 52 - 1 = s + 1 := by omega
      rw [e1, e2, Nat.pow_succ]; ring
    · have hk' : 2 ^ 52 ≤ k := by omega
      have e1 : (s * 2 ^ 52 + k) % 2 ^ 52 = k - 2 ^ 52 := by omega
      have e2 : (s * 2 ^ 52 + k) / 2 ^ 52 - 1 = s := by omega
      rw [e1, e2, Nat.add_sub_cancel' hk']

/-- Every magnitude is a shift and a significand. -/
theorem mag_shift (mag : Nat) : ∃ s k, (s = 0 ∨ 2 ^ 52 ≤ k) ∧ k < 2 ^ 53 ∧ mag = s * 2 ^ 52 + k := by
  by_cases h : mag < 2 ^ 52
  · exact ⟨0, mag, .inl rfl, by omega, by omega⟩
  · exact ⟨mag / 2 ^ 52 - 1, 2 ^ 52 + mag % 2 ^ 52, .inr (by omega), by omega, by omega⟩

/-- The rounding before the overflow check: shift and significand. -/
theorem roundMag_shift (n : Nat) {d : Nat} (hd : 0 < d) :
    ∃ s, (s = 0 ∨ 2 ^ (52 + s) * d ≤ n) ∧ roundHalfEven n (d * 2 ^ s) ≤ 2 ^ 53 ∧
      (s = 0 ∨ 2 ^ 52 ≤ roundHalfEven n (d * 2 ^ s)) ∧
      roundMag n d = min (s * 2 ^ 52 + roundHalfEven n (d * 2 ^ s)) infMag := by
  refine ⟨Nat.log2 (n / d) - 52, ?_, ?_, ?_, rfl⟩
  · by_cases h : Nat.log2 (n / d) ≤ 52
    · exact .inl (by omega)
    · right
      have hq : n / d ≠ 0 := by intro h0; rw [h0] at h; simp at h
      have := Nat.log2_self_le hq
      have e : 52 + (Nat.log2 (n / d) - 52) = Nat.log2 (n / d) := by omega
      rw [e]
      exact (Nat.le_div_iff_mul_le hd).1 this
  · have hb := (roundHalfEven_bounds n (d * 2 ^ (Nat.log2 (n / d) - 52))).2
    have hlt : n / (d * 2 ^ (Nat.log2 (n / d) - 52)) < 2 ^ 53 := by
      rw [← Nat.div_div_eq_div_mul, Nat.div_lt_iff_lt_mul (by positivity), ← Nat.pow_add]
      refine lt_of_lt_of_le Nat.lt_log2_self (Nat.pow_le_pow_right (by norm_num) (by omega))
    omega
  · by_cases h : Nat.log2 (n / d) ≤ 52
    · exact .inl (by omega)
    · right
      have hb := (roundHalfEven_bounds n (d * 2 ^ (Nat.log2 (n / d) - 52))).1
      refine le_trans ?_ hb
      rw [← Nat.div_div_eq_div_mul, Nat.le_div_iff_mul_le (by positivity), ← Nat.pow_add]
      have hq : n / d ≠ 0 := by intro h0; rw [h0] at h; simp at h
      have e : 52 + (Nat.log2 (n / d) - 52) = Nat.log2 (n / d) := by omega
      rw [e]
      exact Nat.log2_self_le hq

/-- No magnitude is nearer to n / d units than the rounded one, and one as near is there only when the rounded pattern is
even. -/
theorem roundMag_nearest (n : Nat) {d : Nat} (hd : 0 < d) (hfin : roundMag n d < infMag) (mag : Nat) :
    |(unitsOf (roundMag n d) : Int) * d - n| < |(unitsOf mag : Int) * d - n| ∨
      unitsOf mag = unitsOf (roundMag n d) ∨
      (|(unitsOf (roundMag n d) : Int) * d - n| = |(unitsOf mag : Int) * d - n| ∧ roundMag n d % 2 = 0) := by
  obtain ⟨s, hs, hk, hks, hr⟩ := roundMag_shift n hd
  have hr' : roundMag n d = s * 2 ^ 52 + roundHalfEven n (d * 2 ^ s) := by
    rw [hr] at hfin ⊢; omega
  have hD : 0 < d * 2 ^ s := by positivity
  have hu : unitsOf (roundMag n d) = roundHalfEven n (d * 2 ^ s) * 2 ^ s := by rw [hr', unitsOf_shift hks hk]
  have heven : roundMag n d % 2 = roundHalfEven n (d * 2 ^ s) % 2 := by rw [hr']; omega
  have hcast : ∀ j : Int, j * 2 ^ s * d = j * ((d * 2 ^ s : Nat) : Int) := by intro j; push_cast; ring
  have e1 : (unitsOf (roundMag n d) : Int) * d = (roundHalfEven n (d * 2 ^ s) : Int) * ((d * 2 ^ s : Nat) : Int) := by
    rw [hu]; push_cast; ring
  obtain ⟨s', k', hs', hk', rfl⟩ := mag_shift mag
  rw [unitsOf_shift hs' hk'.le]
  by_cases hss : s ≤ s'
  · obtain ⟨c, rfl⟩ := Nat.exists_eq_add_of_le hss
    have e2 : ((k' * 2 ^ (s + c) : Nat) : Int) * d = ((k' * 2 ^ c : Nat) : Int) * ((d * 2 ^ s : Nat) : Int) := by
      push_cast; ring
    rw [e1, e2, heven]
    rcases roundHalfEven_nearest n hD ((k' * 2 ^ c : Nat) : Int) with h | h | h
    · exact .inl h
    · right; left
      rw [hu]
      have : k' * 2 ^ c = roundHalfEven n (d * 2 ^ s) := by exact_mod_cast h
      rw [← this]; ring
    · exact .inr (.inr h)
  · have hs0 : s ≠ 0 := by omega
    have hn : 2 ^ (52 + s) * d ≤ n := hs.resolve_left hs0
    have hlt : k' * 2 ^ s' < 2 ^ (52 + s) := by
      calc k' * 2 ^ s' < 2 ^ 53 * 2 ^ s' := by
            exact (Nat.mul_lt_mul_right (Nat.two_pow_pos s')).2 hk'
        _ = 2 ^ (53 + s') := (Nat.pow_add 2 53 s').symm
        _ ≤ 2 ^ (52 + s) := Nat.pow_le_pow_right (by norm_num) (by omega)
    left
    rw [e1]
    have hle : |(roundHalfEven n (d * 2 ^ s) : Int) * ((d * 2 ^ s : Nat) : Int) - n| ≤
        |((2 ^ 52 : Nat) : Int) * ((d * 2 ^ s : Nat) : Int) - n| := by
      rcases roundHalfEven_nearest n hD ((2 ^ 52 : Nat) : Int) with h | h | h
      · exact h.le
      · rw [h]
      · exact h.1.le
    refine lt_of_le_of_lt hle ?_
    have e3 : ((2 ^ 52 : Nat) : Int) * ((d * 2 ^ s : Nat) : Int) = ((2 ^ (52 + s) * d : Nat) : Int) := by
      push_cast; ring
    have h1 : ((2 ^ (52 + s) * d : Nat) : Int) ≤ n := by exact_mod_cast hn
    have h2 : ((k' * 2 ^ s' : Nat) : Int) * d < ((2 ^ (52 + s) * d : Nat) : Int) := by
      have := Nat.mul_lt_mul_of_pos_right hlt hd
      exact_mod_cast this
    rw [e3, abs_of_nonpos (by linarith), abs_of_nonpos (by linarith)]
    linarith

/-- A magnitude that is a finite pattern rounds to itself. -/
theorem roundMag_exact {mag : Nat} (h : mag < infMag) {d : Nat} (hd : 0 < d) : roundMag (unitsOf mag * d) d = mag := by
  obtain ⟨s', k', hs', hk', rfl⟩ := mag_shift mag
  rw [unitsOf_shift hs' hk'.le] at *
  unfold roundMag
  rw [Nat.mul_div_cancel _ hd]
  have hlog : Nat.log2 (k' * 2 ^ s') - 52 = s' := by
    rcases hs' with rfl | hk2
    · have : k' < 2 ^ 53 := hk'
      by_cases hz : k' = 0
      · subst hz; simp
      · have := (Nat.log2_lt hz).2 hk'
        simp; omega
    · have hz : k' * 2 ^ s' ≠ 0 := by positivity
      have h1 : Nat.log2 (k' * 2 ^ s') < 53 + s' := (Nat.log2_lt hz).2 (by
        rw [Nat.pow_add]; exact (Nat.mul_lt_mul_right (Nat.two_pow_pos s')).2 hk')
      have h2 : 52 + s' ≤ Nat.log2 (k' * 2 ^ s') := (Nat.le_log2 hz).2 (by
        rw [Nat.pow_add]; exact Nat.mul_le_mul_right _ hk2)
      omega
  simp only [hlog]
  have e : k' * 2 ^ s' * d = k' * (d * 2 ^ s') := by ring
  rw [e, roundHalfEven_mul k' (by positivity)]
  omega

/-- `fpOfNat` is exact up to 2^53 (00_scope.md R15, R22). -/
theorem unpack_fpOfNat {n : Nat} (h : n ≤ 2 ^ 53) : unpack (fpOfNat n) = .fin false (n * fpOne) := by
  by_cases hz : n = 0
  · subst hz; decide +kernel
  -- the power of two that brings n to 53 bits
  have hl : Nat.log2 n ≤ 53 := by
    have := (Nat.log2_lt hz (k := 54)).2 (by omega)
    omega
  by_cases h53 : n = 2 ^ 53
  · subst h53; decide +kernel
  have hl2 : Nat.log2 n ≤ 52 := by
    have := (Nat.log2_lt hz (k := 53)).2 (by omega)
    omega
  have hlo := Nat.log2_self_le hz
  have hhi := Nat.lt_log2_self (n := n)
  set l := Nat.log2 n with hldef
  have hk1 : 2 ^ 52 ≤ n * 2 ^ (52 - l) := by
    calc 2 ^ 52 = 2 ^ l * 2 ^ (52 - l) := by rw [← Nat.pow_add]; congr 1; omega
      _ ≤ n * 2 ^ (52 - l) := Nat.mul_le_mul_right _ hlo
  have hk2 : n * 2 ^ (52 - l) < 2 ^ 53 := by
    calc n * 2 ^ (52 - l) < 2 ^ (l + 1) * 2 ^ (52 - l) := (Nat.mul_lt_mul_right (Nat.two_pow_pos _)).2 hhi
      _ = 2 ^ 53 := by rw [← Nat.pow_add]; congr 1; omega
  have hu : unitsOf ((1022 + l) * 2 ^ 52 + n * 2 ^ (52 - l)) = n * fpOne := by
    rw [unitsOf_shift (.inr hk1) hk2.le, fpOne, mul_assoc, ← Nat.pow_add]
    congr 2; omega
  have hfin : (1022 + l) * 2 ^ 52 + n * 2 ^ (52 - l) < infMag := by unfold infMag; omega
  have hr := roundMag_exact hfin (d := 1) (by norm_num)
  rw [Nat.mul_one, hu] at hr
  rw [fpOfNat, hr, unpack_packMag _ hfin, hu]

end Sys2Proof.Machine
end

