-- ==== Sys2Proof/Laws/Numerics.lean ====
section
/-! SUPPORT. The lengths of what the numerics deliver, and property P-ZERO (00_scope.md R30). -/

namespace Sys2Proof.Machine

@[simp] theorem zeroToZero_length (a b : List F64) : (zeroToZero a b).length = b.length := by
  unfold zeroToZero; split <;> simp

@[simp] theorem complexZeroToZero_length (a b : List C64) : (complexZeroToZero a b).length = b.length := by
  unfold complexZeroToZero; split <;> simp

@[simp] theorem numCosb_length (t : BasisFamily) (n : Nat) :
    (numCosb t n).length = basisSide t n * basisSide t n := by simp [numCosb]

@[simp] theorem numOmega_length (n : Nat) : (numOmega n).length = n * n := by simp [numOmega]

@[simp] theorem numInv_length (n : Nat) (a : List F64) : (numInv n a).length = n * n := by simp [numInv]

@[simp] theorem numKron_length (b m : List F64) : (numKron b m).length = 64 := by simp [numKron]

@[simp] theorem numRsim_length (l m r : List F64) : (numRsim l m r).length = 64 := by simp [numRsim]

@[simp] theorem numCsim_length (n : Nat) (l m r : List C64) : (numCsim n l m r).length = n * n := by simp [numCsim]

@[simp] theorem transpose_length {α : Type} [Inhabited α] (n : Nat) (xs : List α) :
    (transpose n xs).length = n * n := by simp [transpose]

@[simp] theorem conjTranspose_length (n : Nat) (zs : List C64) : (conjTranspose n zs).length = n * n := by
  simp [conjTranspose]

/-- The sign bit alone is a zero. -/
theorem fpIsZero_signOnly (x : F64) : fpIsZero (fpSignOnly x) = true := by
  simp only [fpIsZero, fpSignOnly, decide_eq_true_eq, BitVec.and_assoc]
  simp

/-- The sign bit alone is one of the two zeros. -/
theorem fpSignOnly_cases (x : F64) : fpSignOnly x = 0#64 ∨ fpSignOnly x = 0x8000000000000000#64 := by
  rw [fpSignOnly, show 0x8000000000000000#64 = BitVec.twoPow 64 63 by decide, BitVec.and_twoPow]
  split
  · exact .inr rfl
  · exact .inl rfl

/-- P-ZERO (00_scope.md R30) for the real products. -/
theorem zeroToZero_zero {a : List F64} (h : ∀ x ∈ a, fpIsZero x = true) (b : List F64) :
    ∀ y ∈ zeroToZero a b, fpIsZero y = true := by
  have hall : a.all fpIsZero = true := List.all_eq_true.2 h
  intro y hy
  rw [zeroToZero, if_pos hall, List.mem_map] at hy
  obtain ⟨x, -, rfl⟩ := hy
  exact fpIsZero_signOnly x

/-- P-ZERO (00_scope.md R30) for the complex product. -/
theorem complexZeroToZero_zero {a : List C64} (h : ∀ z ∈ a, complexIsZero z = true) (b : List C64) :
    ∀ y ∈ complexZeroToZero a b, complexIsZero y = true := by
  have hall : a.all complexIsZero = true := List.all_eq_true.2 h
  intro y hy
  rw [complexZeroToZero, if_pos hall, List.mem_map] at hy
  obtain ⟨x, -, rfl⟩ := hy
  simp [complexIsZero, complexSignOnly, fpIsZero_signOnly]

end Sys2Proof.Machine
end

