-- ==== Sys2Proof/Laws/State.lean ====
section
/-! SUPPORT. One lemma per field per update of State, so that no later proof unfolds a record update. -/

namespace Sys2Proof.Machine

variable (s : State)

@[simp] theorem State.writeV_v (r : Fin 8) (m : Matrix) : (s.writeV r m).v = s.v.set r (some m) := rfl
@[simp] theorem State.writeV_masks (r : Fin 8) (m : Matrix) : (s.writeV r m).masks = s.masks := rfl
@[simp] theorem State.writeV_rom (r : Fin 8) (m : Matrix) : (s.writeV r m).rom = s.rom := rfl
@[simp] theorem State.writeV_ties (r : Fin 8) (m : Matrix) : (s.writeV r m).ties = s.ties := rfl
@[simp] theorem State.writeV_pend (r : Fin 8) (m : Matrix) : (s.writeV r m).pend = s.pend := rfl
@[simp] theorem State.writeV_lastcmd (r : Fin 8) (m : Matrix) : (s.writeV r m).lastcmd = s.lastcmd := rfl
@[simp] theorem State.writeV_wloRe (r : Fin 8) (m : Matrix) : (s.writeV r m).wloRe = s.wloRe := rfl
@[simp] theorem State.writeV_wloIm (r : Fin 8) (m : Matrix) : (s.writeV r m).wloIm = s.wloIm := rfl
@[simp] theorem State.writeV_rhiRe (r : Fin 8) (m : Matrix) : (s.writeV r m).rhiRe = s.rhiRe := rfl
@[simp] theorem State.writeV_rhiIm (r : Fin 8) (m : Matrix) : (s.writeV r m).rhiIm = s.rhiIm := rfl
@[simp] theorem State.writeV_done (r : Fin 8) (m : Matrix) : (s.writeV r m).done = s.done := rfl
@[simp] theorem State.writeV_err (r : Fin 8) (m : Matrix) : (s.writeV r m).err = s.err := rfl
@[simp] theorem State.writeV_merr (r : Fin 8) (m : Matrix) : (s.writeV r m).merr = s.merr := rfl
@[simp] theorem State.writeV_herr (r : Fin 8) (m : Matrix) : (s.writeV r m).herr = s.herr := rfl
@[simp] theorem State.writeV_irqEn (r : Fin 8) (m : Matrix) : (s.writeV r m).irqEn = s.irqEn := rfl
@[simp] theorem State.writeV_vsel (r : Fin 8) (m : Matrix) : (s.writeV r m).vsel = s.vsel := rfl
@[simp] theorem State.writeV_idx (r : Fin 8) (m : Matrix) : (s.writeV r m).idx = s.idx := rfl
@[simp] theorem State.writeV_script (r : Fin 8) (m : Matrix) : (s.writeV r m).script = s.script := rfl
@[simp] theorem State.writeV_answers (r : Fin 8) (m : Matrix) : (s.writeV r m).answers = s.answers := rfl
@[simp] theorem State.writeV_issued (r : Fin 8) (m : Matrix) : (s.writeV r m).issued = s.issued := rfl

@[simp] theorem State.writeMask_v (j : Fin 4) (w : BitVec 64) : (s.writeMask j w).v = s.v := rfl
@[simp] theorem State.writeMask_masks (j : Fin 4) (w : BitVec 64) : (s.writeMask j w).masks = s.masks.set j (some w) := rfl
@[simp] theorem State.writeMask_rom (j : Fin 4) (w : BitVec 64) : (s.writeMask j w).rom = s.rom := rfl
@[simp] theorem State.writeMask_ties (j : Fin 4) (w : BitVec 64) : (s.writeMask j w).ties = s.ties := rfl
@[simp] theorem State.writeMask_pend (j : Fin 4) (w : BitVec 64) : (s.writeMask j w).pend = s.pend := rfl
@[simp] theorem State.writeMask_lastcmd (j : Fin 4) (w : BitVec 64) : (s.writeMask j w).lastcmd = s.lastcmd := rfl
@[simp] theorem State.writeMask_wloRe (j : Fin 4) (w : BitVec 64) : (s.writeMask j w).wloRe = s.wloRe := rfl
@[simp] theorem State.writeMask_wloIm (j : Fin 4) (w : BitVec 64) : (s.writeMask j w).wloIm = s.wloIm := rfl
@[simp] theorem State.writeMask_rhiRe (j : Fin 4) (w : BitVec 64) : (s.writeMask j w).rhiRe = s.rhiRe := rfl
@[simp] theorem State.writeMask_rhiIm (j : Fin 4) (w : BitVec 64) : (s.writeMask j w).rhiIm = s.rhiIm := rfl
@[simp] theorem State.writeMask_done (j : Fin 4) (w : BitVec 64) : (s.writeMask j w).done = s.done := rfl
@[simp] theorem State.writeMask_err (j : Fin 4) (w : BitVec 64) : (s.writeMask j w).err = s.err := rfl
@[simp] theorem State.writeMask_merr (j : Fin 4) (w : BitVec 64) : (s.writeMask j w).merr = s.merr := rfl
@[simp] theorem State.writeMask_herr (j : Fin 4) (w : BitVec 64) : (s.writeMask j w).herr = s.herr := rfl
@[simp] theorem State.writeMask_irqEn (j : Fin 4) (w : BitVec 64) : (s.writeMask j w).irqEn = s.irqEn := rfl
@[simp] theorem State.writeMask_vsel (j : Fin 4) (w : BitVec 64) : (s.writeMask j w).vsel = s.vsel := rfl
@[simp] theorem State.writeMask_idx (j : Fin 4) (w : BitVec 64) : (s.writeMask j w).idx = s.idx := rfl
@[simp] theorem State.writeMask_script (j : Fin 4) (w : BitVec 64) : (s.writeMask j w).script = s.script := rfl
@[simp] theorem State.writeMask_answers (j : Fin 4) (w : BitVec 64) : (s.writeMask j w).answers = s.answers := rfl
@[simp] theorem State.writeMask_issued (j : Fin 4) (w : BitVec 64) : (s.writeMask j w).issued = s.issued := rfl

@[simp] theorem State.setHerr_v : (s.setHerr).v = s.v := rfl
@[simp] theorem State.setHerr_masks : (s.setHerr).masks = s.masks := rfl
@[simp] theorem State.setHerr_rom : (s.setHerr).rom = s.rom := rfl
@[simp] theorem State.setHerr_ties : (s.setHerr).ties = s.ties := rfl
@[simp] theorem State.setHerr_pend : (s.setHerr).pend = s.pend := rfl
@[simp] theorem State.setHerr_lastcmd : (s.setHerr).lastcmd = s.lastcmd := rfl
@[simp] theorem State.setHerr_wloRe : (s.setHerr).wloRe = s.wloRe := rfl
@[simp] theorem State.setHerr_wloIm : (s.setHerr).wloIm = s.wloIm := rfl
@[simp] theorem State.setHerr_rhiRe : (s.setHerr).rhiRe = s.rhiRe := rfl
@[simp] theorem State.setHerr_rhiIm : (s.setHerr).rhiIm = s.rhiIm := rfl
@[simp] theorem State.setHerr_done : (s.setHerr).done = s.done := rfl
@[simp] theorem State.setHerr_err : (s.setHerr).err = s.err := rfl
@[simp] theorem State.setHerr_merr : (s.setHerr).merr = s.merr := rfl
@[simp] theorem State.setHerr_herr : (s.setHerr).herr = true := rfl
@[simp] theorem State.setHerr_irqEn : (s.setHerr).irqEn = s.irqEn := rfl
@[simp] theorem State.setHerr_vsel : (s.setHerr).vsel = s.vsel := rfl
@[simp] theorem State.setHerr_idx : (s.setHerr).idx = s.idx := rfl
@[simp] theorem State.setHerr_script : (s.setHerr).script = s.script := rfl
@[simp] theorem State.setHerr_answers : (s.setHerr).answers = s.answers := rfl
@[simp] theorem State.setHerr_issued : (s.setHerr).issued = s.issued := rfl

@[simp] theorem State.complete_v : (s.complete).v = s.v := rfl
@[simp] theorem State.complete_masks : (s.complete).masks = s.masks := rfl
@[simp] theorem State.complete_rom : (s.complete).rom = s.rom := rfl
@[simp] theorem State.complete_ties : (s.complete).ties = s.ties := rfl
@[simp] theorem State.complete_pend : (s.complete).pend = none := rfl
@[simp] theorem State.complete_lastcmd : (s.complete).lastcmd = s.lastcmd := rfl
@[simp] theorem State.complete_wloRe : (s.complete).wloRe = s.wloRe := rfl
@[simp] theorem State.complete_wloIm : (s.complete).wloIm = s.wloIm := rfl
@[simp] theorem State.complete_rhiRe : (s.complete).rhiRe = s.rhiRe := rfl
@[simp] theorem State.complete_rhiIm : (s.complete).rhiIm = s.rhiIm := rfl
@[simp] theorem State.complete_done : (s.complete).done = true := rfl
@[simp] theorem State.complete_err : (s.complete).err = s.err := rfl
@[simp] theorem State.complete_merr : (s.complete).merr = s.merr := rfl
@[simp] theorem State.complete_herr : (s.complete).herr = s.herr := rfl
@[simp] theorem State.complete_irqEn : (s.complete).irqEn = s.irqEn := rfl
@[simp] theorem State.complete_vsel : (s.complete).vsel = s.vsel := rfl
@[simp] theorem State.complete_idx : (s.complete).idx = s.idx := rfl
@[simp] theorem State.complete_script : (s.complete).script = s.script := rfl
@[simp] theorem State.complete_answers : (s.complete).answers = s.answers := rfl
@[simp] theorem State.complete_issued : (s.complete).issued = s.issued := rfl

@[simp] theorem State.acknowledge_v : (s.acknowledge).v = s.v := rfl
@[simp] theorem State.acknowledge_masks : (s.acknowledge).masks = s.masks := rfl
@[simp] theorem State.acknowledge_rom : (s.acknowledge).rom = s.rom := rfl
@[simp] theorem State.acknowledge_ties : (s.acknowledge).ties = s.ties := rfl
@[simp] theorem State.acknowledge_pend : (s.acknowledge).pend = s.pend := rfl
@[simp] theorem State.acknowledge_lastcmd : (s.acknowledge).lastcmd = s.lastcmd := rfl
@[simp] theorem State.acknowledge_wloRe : (s.acknowledge).wloRe = s.wloRe := rfl
@[simp] theorem State.acknowledge_wloIm : (s.acknowledge).wloIm = s.wloIm := rfl
@[simp] theorem State.acknowledge_rhiRe : (s.acknowledge).rhiRe = s.rhiRe := rfl
@[simp] theorem State.acknowledge_rhiIm : (s.acknowledge).rhiIm = s.rhiIm := rfl
@[simp] theorem State.acknowledge_done : (s.acknowledge).done = false := rfl
@[simp] theorem State.acknowledge_err : (s.acknowledge).err = none := rfl
@[simp] theorem State.acknowledge_merr : (s.acknowledge).merr = false := rfl
@[simp] theorem State.acknowledge_herr : (s.acknowledge).herr = false := rfl
@[simp] theorem State.acknowledge_irqEn : (s.acknowledge).irqEn = s.irqEn := rfl
@[simp] theorem State.acknowledge_vsel : (s.acknowledge).vsel = s.vsel := rfl
@[simp] theorem State.acknowledge_idx : (s.acknowledge).idx = s.idx := rfl
@[simp] theorem State.acknowledge_script : (s.acknowledge).script = s.script := rfl
@[simp] theorem State.acknowledge_answers : (s.acknowledge).answers = s.answers := rfl
@[simp] theorem State.acknowledge_issued : (s.acknowledge).issued = s.issued := rfl

@[simp] theorem State.issue_v (w : Word) (k : Nat) : (s.issue w k).v = s.v := rfl
@[simp] theorem State.issue_masks (w : Word) (k : Nat) : (s.issue w k).masks = s.masks := rfl
@[simp] theorem State.issue_rom (w : Word) (k : Nat) : (s.issue w k).rom = s.rom := rfl
@[simp] theorem State.issue_ties (w : Word) (k : Nat) : (s.issue w k).ties = s.ties := rfl
@[simp] theorem State.issue_pend (w : Word) (k : Nat) : (s.issue w k).pend = some ⟨w, k⟩ := rfl
@[simp] theorem State.issue_lastcmd (w : Word) (k : Nat) : (s.issue w k).lastcmd = w := rfl
@[simp] theorem State.issue_wloRe (w : Word) (k : Nat) : (s.issue w k).wloRe = s.wloRe := rfl
@[simp] theorem State.issue_wloIm (w : Word) (k : Nat) : (s.issue w k).wloIm = s.wloIm := rfl
@[simp] theorem State.issue_rhiRe (w : Word) (k : Nat) : (s.issue w k).rhiRe = s.rhiRe := rfl
@[simp] theorem State.issue_rhiIm (w : Word) (k : Nat) : (s.issue w k).rhiIm = s.rhiIm := rfl
@[simp] theorem State.issue_done (w : Word) (k : Nat) : (s.issue w k).done = false := rfl
@[simp] theorem State.issue_err (w : Word) (k : Nat) : (s.issue w k).err = s.err := rfl
@[simp] theorem State.issue_merr (w : Word) (k : Nat) : (s.issue w k).merr = s.merr := rfl
@[simp] theorem State.issue_herr (w : Word) (k : Nat) : (s.issue w k).herr = s.herr := rfl
@[simp] theorem State.issue_irqEn (w : Word) (k : Nat) : (s.issue w k).irqEn = s.irqEn := rfl
@[simp] theorem State.issue_vsel (w : Word) (k : Nat) : (s.issue w k).vsel = s.vsel := rfl
@[simp] theorem State.issue_idx (w : Word) (k : Nat) : (s.issue w k).idx = s.idx := rfl
@[simp] theorem State.issue_script (w : Word) (k : Nat) : (s.issue w k).script = s.script := rfl
@[simp] theorem State.issue_answers (w : Word) (k : Nat) : (s.issue w k).answers = s.answers := rfl
@[simp] theorem State.issue_issued (w : Word) (k : Nat) : (s.issue w k).issued = s.issued := rfl

@[simp] theorem State.issueDrawn_v (w : Word) : (s.issueDrawn w).v = s.v := rfl
@[simp] theorem State.issueDrawn_masks (w : Word) : (s.issueDrawn w).masks = s.masks := rfl
@[simp] theorem State.issueDrawn_rom (w : Word) : (s.issueDrawn w).rom = s.rom := rfl
@[simp] theorem State.issueDrawn_ties (w : Word) : (s.issueDrawn w).ties = s.ties := rfl
@[simp] theorem State.issueDrawn_pend (w : Word) : (s.issueDrawn w).pend = some ⟨w, Config.latency s.issued⟩ := rfl
@[simp] theorem State.issueDrawn_lastcmd (w : Word) : (s.issueDrawn w).lastcmd = w := rfl
@[simp] theorem State.issueDrawn_wloRe (w : Word) : (s.issueDrawn w).wloRe = s.wloRe := rfl
@[simp] theorem State.issueDrawn_wloIm (w : Word) : (s.issueDrawn w).wloIm = s.wloIm := rfl
@[simp] theorem State.issueDrawn_rhiRe (w : Word) : (s.issueDrawn w).rhiRe = s.rhiRe := rfl
@[simp] theorem State.issueDrawn_rhiIm (w : Word) : (s.issueDrawn w).rhiIm = s.rhiIm := rfl
@[simp] theorem State.issueDrawn_done (w : Word) : (s.issueDrawn w).done = false := rfl
@[simp] theorem State.issueDrawn_err (w : Word) : (s.issueDrawn w).err = s.err := rfl
@[simp] theorem State.issueDrawn_merr (w : Word) : (s.issueDrawn w).merr = s.merr := rfl
@[simp] theorem State.issueDrawn_herr (w : Word) : (s.issueDrawn w).herr = s.herr := rfl
@[simp] theorem State.issueDrawn_irqEn (w : Word) : (s.issueDrawn w).irqEn = s.irqEn := rfl
@[simp] theorem State.issueDrawn_vsel (w : Word) : (s.issueDrawn w).vsel = s.vsel := rfl
@[simp] theorem State.issueDrawn_idx (w : Word) : (s.issueDrawn w).idx = s.idx := rfl
@[simp] theorem State.issueDrawn_script (w : Word) : (s.issueDrawn w).script = s.script := rfl
@[simp] theorem State.issueDrawn_answers (w : Word) : (s.issueDrawn w).answers = s.answers := rfl
@[simp] theorem State.issueDrawn_issued (w : Word) : (s.issueDrawn w).issued = s.issued + 1 := rfl

@[simp] theorem State.tick_v : (s.tick).v = s.v := rfl
@[simp] theorem State.tick_masks : (s.tick).masks = s.masks := rfl
@[simp] theorem State.tick_rom : (s.tick).rom = s.rom := rfl
@[simp] theorem State.tick_ties : (s.tick).ties = s.ties := rfl
@[simp] theorem State.tick_pend : (s.tick).pend = s.pend.map fun p => { p with wait := p.wait - 1 } := rfl
@[simp] theorem State.tick_lastcmd : (s.tick).lastcmd = s.lastcmd := rfl
@[simp] theorem State.tick_wloRe : (s.tick).wloRe = s.wloRe := rfl
@[simp] theorem State.tick_wloIm : (s.tick).wloIm = s.wloIm := rfl
@[simp] theorem State.tick_rhiRe : (s.tick).rhiRe = s.rhiRe := rfl
@[simp] theorem State.tick_rhiIm : (s.tick).rhiIm = s.rhiIm := rfl
@[simp] theorem State.tick_done : (s.tick).done = s.done := rfl
@[simp] theorem State.tick_err : (s.tick).err = s.err := rfl
@[simp] theorem State.tick_merr : (s.tick).merr = s.merr := rfl
@[simp] theorem State.tick_herr : (s.tick).herr = s.herr := rfl
@[simp] theorem State.tick_irqEn : (s.tick).irqEn = s.irqEn := rfl
@[simp] theorem State.tick_vsel : (s.tick).vsel = s.vsel := rfl
@[simp] theorem State.tick_idx : (s.tick).idx = s.idx := rfl
@[simp] theorem State.tick_script : (s.tick).script = s.script := rfl
@[simp] theorem State.tick_answers : (s.tick).answers = s.answers := rfl
@[simp] theorem State.tick_issued : (s.tick).issued = s.issued := rfl

@[simp] theorem State.record_v (e : ErrCode) (w : Word) : (s.record e w).v = s.v := by unfold State.record; split <;> rfl
@[simp] theorem State.record_masks (e : ErrCode) (w : Word) : (s.record e w).masks = s.masks := by unfold State.record; split <;> rfl
@[simp] theorem State.record_rom (e : ErrCode) (w : Word) : (s.record e w).rom = s.rom := by unfold State.record; split <;> rfl
@[simp] theorem State.record_ties (e : ErrCode) (w : Word) : (s.record e w).ties = s.ties := by unfold State.record; split <;> rfl
@[simp] theorem State.record_pend (e : ErrCode) (w : Word) : (s.record e w).pend = s.pend := by unfold State.record; split <;> rfl
@[simp] theorem State.record_lastcmd (e : ErrCode) (w : Word) : (s.record e w).lastcmd = s.lastcmd := by unfold State.record; split <;> rfl
@[simp] theorem State.record_wloRe (e : ErrCode) (w : Word) : (s.record e w).wloRe = s.wloRe := by unfold State.record; split <;> rfl
@[simp] theorem State.record_wloIm (e : ErrCode) (w : Word) : (s.record e w).wloIm = s.wloIm := by unfold State.record; split <;> rfl
@[simp] theorem State.record_rhiRe (e : ErrCode) (w : Word) : (s.record e w).rhiRe = s.rhiRe := by unfold State.record; split <;> rfl
@[simp] theorem State.record_rhiIm (e : ErrCode) (w : Word) : (s.record e w).rhiIm = s.rhiIm := by unfold State.record; split <;> rfl
@[simp] theorem State.record_done (e : ErrCode) (w : Word) : (s.record e w).done = s.done := by unfold State.record; split <;> rfl
@[simp] theorem State.record_herr (e : ErrCode) (w : Word) : (s.record e w).herr = s.herr := by unfold State.record; split <;> rfl
@[simp] theorem State.record_irqEn (e : ErrCode) (w : Word) : (s.record e w).irqEn = s.irqEn := by unfold State.record; split <;> rfl
@[simp] theorem State.record_vsel (e : ErrCode) (w : Word) : (s.record e w).vsel = s.vsel := by unfold State.record; split <;> rfl
@[simp] theorem State.record_idx (e : ErrCode) (w : Word) : (s.record e w).idx = s.idx := by unfold State.record; split <;> rfl
@[simp] theorem State.record_script (e : ErrCode) (w : Word) : (s.record e w).script = s.script := by unfold State.record; split <;> rfl
@[simp] theorem State.record_answers (e : ErrCode) (w : Word) : (s.record e w).answers = s.answers := by unfold State.record; split <;> rfl
@[simp] theorem State.record_issued (e : ErrCode) (w : Word) : (s.record e w).issued = s.issued := by unfold State.record; split <;> rfl

@[simp] theorem State.raise_v (e : ErrCode) : (s.raise e).v = s.v := by simp [State.raise]
@[simp] theorem State.raise_masks (e : ErrCode) : (s.raise e).masks = s.masks := by simp [State.raise]
@[simp] theorem State.raise_rom (e : ErrCode) : (s.raise e).rom = s.rom := by simp [State.raise]
@[simp] theorem State.raise_ties (e : ErrCode) : (s.raise e).ties = s.ties := by simp [State.raise]
@[simp] theorem State.raise_pend (e : ErrCode) : (s.raise e).pend = none := by simp [State.raise]
@[simp] theorem State.raise_lastcmd (e : ErrCode) : (s.raise e).lastcmd = s.lastcmd := by simp [State.raise]
@[simp] theorem State.raise_wloRe (e : ErrCode) : (s.raise e).wloRe = s.wloRe := by simp [State.raise]
@[simp] theorem State.raise_wloIm (e : ErrCode) : (s.raise e).wloIm = s.wloIm := by simp [State.raise]
@[simp] theorem State.raise_rhiRe (e : ErrCode) : (s.raise e).rhiRe = s.rhiRe := by simp [State.raise]
@[simp] theorem State.raise_rhiIm (e : ErrCode) : (s.raise e).rhiIm = s.rhiIm := by simp [State.raise]
@[simp] theorem State.raise_done (e : ErrCode) : (s.raise e).done = true := by simp [State.raise]
@[simp] theorem State.raise_herr (e : ErrCode) : (s.raise e).herr = s.herr := by simp [State.raise]
@[simp] theorem State.raise_irqEn (e : ErrCode) : (s.raise e).irqEn = s.irqEn := by simp [State.raise]
@[simp] theorem State.raise_vsel (e : ErrCode) : (s.raise e).vsel = s.vsel := by simp [State.raise]
@[simp] theorem State.raise_idx (e : ErrCode) : (s.raise e).idx = s.idx := by simp [State.raise]
@[simp] theorem State.raise_script (e : ErrCode) : (s.raise e).script = s.script := by simp [State.raise]
@[simp] theorem State.raise_answers (e : ErrCode) : (s.raise e).answers = s.answers := by simp [State.raise]
@[simp] theorem State.raise_issued (e : ErrCode) : (s.raise e).issued = s.issued := by simp [State.raise]

@[simp] theorem State.hardReset_v : (s.hardReset).v = Vector.replicate 8 none := rfl
@[simp] theorem State.hardReset_masks : (s.hardReset).masks = Vector.replicate 4 none := rfl
@[simp] theorem State.hardReset_rom : (s.hardReset).rom = ConstStore.ofBuild s.rom.qtab := rfl
@[simp] theorem State.hardReset_ties : (s.hardReset).ties = s.ties := rfl
@[simp] theorem State.hardReset_pend : (s.hardReset).pend = none := rfl
@[simp] theorem State.hardReset_lastcmd : (s.hardReset).lastcmd = 0#32 := rfl
@[simp] theorem State.hardReset_wloRe : (s.hardReset).wloRe = 0#32 := rfl
@[simp] theorem State.hardReset_wloIm : (s.hardReset).wloIm = 0#32 := rfl
@[simp] theorem State.hardReset_rhiRe : (s.hardReset).rhiRe = 0#32 := rfl
@[simp] theorem State.hardReset_rhiIm : (s.hardReset).rhiIm = 0#32 := rfl
@[simp] theorem State.hardReset_done : (s.hardReset).done = false := rfl
@[simp] theorem State.hardReset_err : (s.hardReset).err = none := rfl
@[simp] theorem State.hardReset_merr : (s.hardReset).merr = false := rfl
@[simp] theorem State.hardReset_herr : (s.hardReset).herr = false := rfl
@[simp] theorem State.hardReset_irqEn : (s.hardReset).irqEn = false := rfl
@[simp] theorem State.hardReset_vsel : (s.hardReset).vsel = 0 := rfl
@[simp] theorem State.hardReset_idx : (s.hardReset).idx = 0#16 := rfl
@[simp] theorem State.hardReset_script : (s.hardReset).script = s.script := rfl
@[simp] theorem State.hardReset_answers : (s.hardReset).answers = s.answers := rfl
@[simp] theorem State.hardReset_issued : (s.hardReset).issued = s.issued := rfl

@[simp] theorem State.softReset_v : (s.softReset).v = Vector.replicate 8 none := rfl
@[simp] theorem State.softReset_masks : (s.softReset).masks = Vector.replicate 4 none := rfl
@[simp] theorem State.softReset_rom : (s.softReset).rom = s.rom := rfl
@[simp] theorem State.softReset_ties : (s.softReset).ties = s.ties := rfl
@[simp] theorem State.softReset_pend : (s.softReset).pend = none := rfl
@[simp] theorem State.softReset_lastcmd : (s.softReset).lastcmd = 0#32 := rfl
@[simp] theorem State.softReset_wloRe : (s.softReset).wloRe = 0#32 := rfl
@[simp] theorem State.softReset_wloIm : (s.softReset).wloIm = 0#32 := rfl
@[simp] theorem State.softReset_rhiRe : (s.softReset).rhiRe = 0#32 := rfl
@[simp] theorem State.softReset_rhiIm : (s.softReset).rhiIm = 0#32 := rfl
@[simp] theorem State.softReset_done : (s.softReset).done = false := rfl
@[simp] theorem State.softReset_err : (s.softReset).err = none := rfl
@[simp] theorem State.softReset_merr : (s.softReset).merr = false := rfl
@[simp] theorem State.softReset_herr : (s.softReset).herr = false := rfl
@[simp] theorem State.softReset_irqEn : (s.softReset).irqEn = false := rfl
@[simp] theorem State.softReset_vsel : (s.softReset).vsel = 0 := rfl
@[simp] theorem State.softReset_idx : (s.softReset).idx = 0#16 := rfl
@[simp] theorem State.softReset_script : (s.softReset).script = s.script := rfl
@[simp] theorem State.softReset_answers : (s.softReset).answers = s.answers := rfl
@[simp] theorem State.softReset_issued : (s.softReset).issued = s.issued := rfl

end Sys2Proof.Machine
end

