-- ==== Sys2Proof/Laws/Ops.lean ====
section
/-! SUPPORT. What the shared operations can do, each said once: recording and raising an error, ending a command. -/

namespace Sys2Proof.Machine

/-- Everything `record` can do (60_exceptions.md R302), as one record. -/
theorem State.record_eq (s : State) (e : ErrCode) (w : Word) :
    s.record e w = { s with err := some (s.err.getD ⟨e, w⟩), merr := s.merr || s.err.isSome } := by
  cases s with
  | mk v masks rom ties pend lastcmd a b c d done err merr herr irqEn vsel idx script answers issued =>
    cases err <;> simp [State.record]

/-- Everything `raise` can do (60_exceptions.md R301, R302), as one record. -/
theorem State.raise_eq (s : State) (e : ErrCode) :
    s.raise e = { s with
      err := some (s.err.getD ⟨e, s.commandWord⟩), merr := s.merr || s.err.isSome, pend := none, done := true } := by
  rw [State.raise, State.record_eq]; rfl

/-- What a claim calls a failed command is what the machine's `raise` does. -/
theorem State.failed_eq_raise (s : State) (e : ErrCode) : s.failed e = s.raise e := by
  rw [State.raise_eq, State.failed]
  cases s with
  | mk v masks rom ties pend lastcmd a b c d done err merr herr irqEn vsel idx script answers issued =>
    cases err <;> simp

/-- What a claim calls a committed result is what the machine's commit and completion do. -/
theorem State.committed_eq (s : State) (vd : Fin 8) (m : Matrix) : s.committed vd m = (s.writeV vd m).complete := rfl

/-- The same for a mask. -/
theorem State.masked_eq (s : State) (j : Fin 4) (w : BitVec 64) : s.masked j w = (s.writeMask j w).complete := rfl

@[simp] theorem State.raise_err (s : State) (e : ErrCode) :
    (s.raise e).err = some (s.err.getD ⟨e, s.commandWord⟩) := by rw [State.raise_eq]

@[simp] theorem State.raise_merr (s : State) (e : ErrCode) :
    (s.raise e).merr = (s.merr || s.err.isSome) := by rw [State.raise_eq]

@[simp] theorem State.finish_ok (s : State) (vd : Fin 8) (m : Matrix) :
    s.finish vd (.ok m) = .next (s.writeV vd m).complete := rfl

@[simp] theorem State.finish_error (s : State) (vd : Fin 8) (e : ErrCode) :
    s.finish vd (.error e) = .next (s.raise e) := rfl

/-- A command with a matrix result either commits it or raises an error, and completes either way. -/
theorem State.finish_cases (s : State) (vd : Fin 8) (r : Except ErrCode Matrix) :
    (∃ m, r = .ok m ∧ s.finish vd r = .next (s.writeV vd m).complete) ∨
    (∃ e, r = .error e ∧ s.finish vd r = .next (s.raise e)) := by
  cases r with
  | ok m => exact .inl ⟨m, rfl, rfl⟩
  | error e => exact .inr ⟨e, rfl, rfl⟩

/-- Binding a check that passed. -/
@[simp] theorem except_bind_ok {ε α β : Type} (a : α) (f : α → Except ε β) : (Except.ok a >>= f) = f a := rfl

/-- Binding a check that raised an error. -/
@[simp] theorem except_bind_error {ε α β : Type} (e : ε) (f : α → Except ε β) :
    ((Except.error e : Except ε α) >>= f) = .error e := rfl

/-- A bind succeeds only through both of its parts. -/
theorem except_bind_eq_ok {ε α β : Type} {x : Except ε α} {f : α → Except ε β} {b : β} :
    (x >>= f) = .ok b ↔ ∃ a, x = .ok a ∧ f a = .ok b := by
  cases x with
  | ok a => simp
  | error e => simp

end Sys2Proof.Machine
end

