-- ==== Sys2Proof/Laws/Operands.lean ====
section
/-! SUPPORT. One specification lemma per operand form: exactly when its checks pass and what it reads. -/

namespace Sys2Proof.Machine

variable {s : State} {vs : Fin 8} {m : Matrix}

theorem State.readV_ok : s.readV vs = .ok m ↔ s.v[vs] = some m := by
  unfold State.readV
  cases s.v[vs] <;> simp

theorem State.readV_some (h : s.v[vs] = some m) : s.readV vs = .ok m := State.readV_ok.2 h

theorem State.readV_none (h : s.v[vs] = none) : s.readV vs = .error .uninit := by
  unfold State.readV; rw [h]

theorem State.readMask_ok {j : Fin 4} {w : BitVec 64} : s.readMask j = .ok w ↔ s.masks[j] = some w := by
  unfold State.readMask
  cases s.masks[j] <;> simp

theorem State.readMask_none {j : Fin 4} (h : s.masks[j] = none) : s.readMask j = .error .uninit := by
  unfold State.readMask; rw [h]

theorem Matrix.needReal_ok {xs : List F64} : m.needReal = .ok xs ↔ m.elems = .real xs := by
  unfold Matrix.needReal
  cases m.elems <;> simp

theorem Matrix.needReal_cplx {zs : List C64} (h : m.elems = .cplx zs) : m.needReal = .error .type := by
  unfold Matrix.needReal; rw [h]

theorem Matrix.needBlock_ok {u : Unit} : m.needBlock = .ok u ↔ m.rows = 8 ∧ m.cols = 8 := by
  unfold Matrix.needBlock; split <;> simp_all

theorem Matrix.needBlock_error (h : ¬(m.rows = 8 ∧ m.cols = 8)) : m.needBlock = .error .shape := by
  unfold Matrix.needBlock; rw [if_neg h]

theorem Matrix.needSquare_ok {n : Nat} : m.needSquare = .ok n ↔ m.rows = m.cols ∧ n = m.rows := by
  unfold Matrix.needSquare; split <;> simp_all [eq_comm]

theorem Matrix.needVector_ok {n : Nat} :
    m.needVector = .ok n ↔ (m.rows = 1 ∨ m.cols = 1) ∧ n = m.rows * m.cols := by
  unfold Matrix.needVector; split <;> simp_all [eq_comm]

theorem needDepth_ok {d : Nat} {u : Unit} : needDepth d = .ok u ↔ d = 8 ∨ d = 16 := by
  unfold needDepth
  simp only [Config.depths, List.mem_cons, List.not_mem_nil, or_false]
  split <;> simp_all

theorem needDepth_error {d : Nat} (h : ¬(d = 8 ∨ d = 16)) : needDepth d = .error .depth := by
  unfold needDepth
  simp only [Config.depths, List.mem_cons, List.not_mem_nil, or_false]
  rw [if_neg h]

theorem needOrder_ok {top n : Nat} {u : Unit} : needOrder top n = .ok u ↔ 1 ≤ n ∧ n ≤ top := by
  unfold needOrder; split <;> simp_all

theorem needOrder_error {top n : Nat} (h : ¬(1 ≤ n ∧ n ≤ top)) : needOrder top n = .error .order := by
  unfold needOrder; rw [if_neg h]

/-- The square root that VEC2MAT finds is the only one (42_dct.md R217). -/
theorem needPerfectSquare_ok {len n : Nat} : needPerfectSquare len = .ok n ↔ 1 ≤ n ∧ n * n = len := by
  unfold needPerfectSquare
  constructor
  · intro h
    split at h
    · rename_i k hk
      have := List.find?_some hk
      simp only [decide_eq_true_eq] at this
      cases h; exact this
    · cases h
  · rintro ⟨h1, h2⟩
    have hmem : n ∈ List.range (len + 1) := by
      rw [List.mem_range]; nlinarith
    split
    · rename_i k hk
      have hk' := List.find?_some hk
      simp only [decide_eq_true_eq] at hk'
      have : k = n := Nat.mul_self_inj.1 (hk'.2.trans h2.symm)
      rw [this]
    · rename_i hk
      have := List.find?_eq_none.1 hk n hmem
      simp [h1, h2] at this

theorem needPerfectSquare_error {len : Nat} (h : ¬∃ n, 1 ≤ n ∧ n * n = len) :
    needPerfectSquare len = .error .length := by
  unfold needPerfectSquare
  split
  · rename_i k hk
    have := List.find?_some hk
    simp only [decide_eq_true_eq] at this
    exact absurd ⟨k, this⟩ h
  · rfl

/-- An 8×8 REAL operand is read exactly when it is one. -/
theorem State.blockOperand_ok {xs : List F64} :
    s.blockOperand vs = .ok xs ↔ s.v[vs] = some (realBlock xs) := by
  simp only [State.blockOperand, except_bind_eq_ok, State.readV_ok, Matrix.needReal_ok, Matrix.needBlock_ok, pure,
    Except.pure, Except.ok.injEq]
  constructor
  · rintro ⟨⟨r, c, e⟩, h, ys, he, u, hb, rfl⟩
    simp only at he hb
    rw [h, he, hb.1, hb.2]; rfl
  · intro h
    exact ⟨_, h, xs, rfl, (), ⟨rfl, rfl⟩, rfl⟩

/-- The operand of a command with a depth is read exactly when it is an 8×8 REAL matrix and the depth is legal. -/
theorem State.depthOperand_ok {d : Nat} {xs : List F64} :
    s.depthOperand vs d = .ok xs ↔ s.v[vs] = some (realBlock xs) ∧ (d = 8 ∨ d = 16) := by
  simp only [State.depthOperand, except_bind_eq_ok, State.readV_ok, Matrix.needReal_ok, Matrix.needBlock_ok,
    needDepth_ok, pure, Except.pure, Except.ok.injEq]
  constructor
  · rintro ⟨⟨r, c, e⟩, h, ys, he, u, hd, w, hb, rfl⟩
    simp only at he hb
    rw [h, he, hb.1, hb.2]; exact ⟨rfl, hd⟩
  · rintro ⟨h, hd⟩
    exact ⟨_, h, xs, rfl, (), hd, (), ⟨rfl, rfl⟩, rfl⟩

/-- APPLYMASK reads its operands exactly when the matrix is 8×8 REAL and the mask is valid. -/
theorem State.maskOperand_ok {j : Fin 4} {xs : List F64} {w : BitVec 64} :
    s.maskOperand vs j = .ok (xs, w) ↔ s.v[vs] = some (realBlock xs) ∧ s.masks[j] = some w := by
  simp only [State.maskOperand, except_bind_eq_ok, State.readV_ok, State.readMask_ok, Matrix.needReal_ok,
    Matrix.needBlock_ok, pure, Except.pure, Except.ok.injEq, Prod.mk.injEq]
  constructor
  · rintro ⟨⟨r, c, e⟩, h, x, hx, ys, he, u, hb, rfl, rfl⟩
    simp only at he hb
    rw [h, he, hb.1, hb.2]; exact ⟨rfl, hx⟩
  · rintro ⟨h, hw⟩
    exact ⟨_, h, w, hw, xs, rfl, (), ⟨rfl, rfl⟩, rfl, rfl⟩

/-- The operand of DFT and IDFT is read exactly when it is square. -/
theorem State.squareOperand_ok {n : Nat} {zs : List C64} :
    s.squareOperand vs = .ok (n, zs) ↔
      ∃ e, s.v[vs] = some ⟨n, n, e⟩ ∧ zs = e.toComplex := by
  simp only [State.squareOperand, except_bind_eq_ok, State.readV_ok, Matrix.needSquare_ok, pure, Except.pure,
    Except.ok.injEq, Prod.mk.injEq]
  constructor
  · rintro ⟨⟨r, c, e⟩, h, k, ⟨hrc, hk⟩, rfl, rfl⟩
    simp only at hrc hk
    subst hrc; subst hk; exact ⟨e, h, rfl⟩
  · rintro ⟨e, h, rfl⟩
    exact ⟨_, h, n, ⟨rfl, rfl⟩, rfl, rfl⟩

/-- The operand of DFT8 and IDFT8 is read exactly when it is 8×8. -/
theorem State.dft8Operand_ok {zs : List C64} :
    s.dft8Operand vs = .ok zs ↔ ∃ e, s.v[vs] = some ⟨8, 8, e⟩ ∧ zs = e.toComplex := by
  simp only [State.dft8Operand, except_bind_eq_ok, State.readV_ok, Matrix.needBlock_ok, pure, Except.pure,
    Except.ok.injEq]
  constructor
  · rintro ⟨⟨r, c, e⟩, h, u, hb, rfl⟩
    simp only at hb
    exact ⟨e, by rw [h, hb.1, hb.2], rfl⟩
  · rintro ⟨e, h, rfl⟩
    exact ⟨_, h, (), ⟨rfl, rfl⟩, rfl⟩

end Sys2Proof.Machine
end

