-- ==== Sys2Proof/Laws/Exec.lean ====
section
/-! SUPPORT. What a command can do, said once: it commits a legal matrix to its destination, or a mask to its destination,
or nothing (NOP), or it raises an error; and it completes in each case. -/

namespace Sys2Proof.Machine

/-- Every valid matrix register has a legal shape. -/
abbrev State.regsWf (s : State) : Prop := ∀ (r : Fin 8) (m : Matrix), s.v[r] = some m → m.wf

theorem realBlock_wf {xs : List F64} (h : xs.length = 64) : (realBlock xs).wf := by
  refine ⟨?_, ?_, ?_, ?_⟩ <;> simp [realBlock, Elems.length, h, Config.cap, Config.dMax]

theorem realBlock_length {xs : List F64} (h : (realBlock xs).wf) : xs.length = 64 := h.2.2.2

theorem realSquare_wf {n : Nat} {xs : List F64} (h1 : 1 ≤ n) (h2 : n ≤ 16) (h : xs.length = n * n) :
    (realSquare n xs).wf := by
  refine ⟨h1, h1, ?_, h⟩
  simp only [realSquare, Config.cap, Config.dMax]
  exact Nat.mul_le_mul h2 h2

theorem cplxSquare_wf {n : Nat} {zs : List C64} (h1 : 1 ≤ n) (h2 : n * n ≤ 256) (h : zs.length = n * n) :
    (cplxSquare n zs).wf := ⟨h1, h1, h2, h⟩

@[simp] theorem scaleParts_length (zs : List C64) (d : F64) : (scaleParts zs d).length = zs.length := by
  simp [scaleParts]

@[simp] theorem centerCells_length (d : Nat) (xs : List F64) : (centerCells d xs).length = xs.length := by
  simp [centerCells]

@[simp] theorem quantCells_length (t : RoundTies) (rom : ConstStore) (xs : List F64) :
    (quantCells t rom xs).length = xs.length := by simp [quantCells]

@[simp] theorem dequantCells_length (rom : ConstStore) (xs : List F64) :
    (dequantCells rom xs).length = xs.length := by simp [dequantCells]

@[simp] theorem forwardDct_length (rom : ConstStore) (xs : List F64) : (forwardDct rom xs).length = 64 := by
  simp [forwardDct]

@[simp] theorem inverseDct_length (rom : ConstStore) (xs : List F64) : (inverseDct rom xs).length = 64 := by
  simp [inverseDct]

@[simp] theorem reconCells_length (t : RoundTies) (rom : ConstStore) (d : Nat) (xs : List F64) :
    (reconCells t rom d xs).length = 64 := by simp [reconCells]

@[simp] theorem maskCells_length (w : BitVec 64) (xs : List F64) : (maskCells w xs).length = xs.length := by
  simp [maskCells]

/-- A command with a matrix destination ends by committing a matrix or by raising an error. -/
inductive Ends (s : State) (vd : Fin 8) (o : Host.Outcome State Fault Refusal) : Prop where
  | commit (m : Matrix) (h : o = .next (s.writeV vd m).complete) (wf : s.regsWf → m.wf)
  | raised (e : ErrCode) (h : o = .next (s.raise e))

theorem State.finish_ends (s : State) (vd : Fin 8) (r : Except ErrCode Matrix)
    (wf : ∀ m, r = .ok m → s.regsWf → m.wf) : Ends s vd (s.finish vd r) := by
  rcases s.finish_cases vd r with ⟨m, hm, h⟩ | ⟨e, -, h⟩
  · exact .commit m h (wf m hm)
  · exact .raised e h

/-- An 8×8 REAL result from an operand of the block commands. -/
theorem blockResult_wf {s : State} {vs : Fin 8} {f : List F64 → List F64} {m : Matrix}
    (hlen : ∀ xs, xs.length = 64 → (f xs).length = 64)
    (h : (s.blockOperand vs >>= fun xs => pure (realBlock (f xs))) = .ok m) (hs : s.regsWf) : m.wf := by
  obtain ⟨xs, hx, hm⟩ := except_bind_eq_ok.1 h
  cases hm
  exact realBlock_wf (hlen xs (realBlock_length (hs _ _ (State.blockOperand_ok.1 hx))))

/-- An 8×8 REAL result from an operand of the commands with a depth. -/
theorem depthResult_wf {s : State} {vs : Fin 8} {d : Nat} {f : List F64 → List F64} {m : Matrix}
    (hlen : ∀ xs, xs.length = 64 → (f xs).length = 64)
    (h : (s.depthOperand vs d >>= fun xs => pure (realBlock (f xs))) = .ok m) (hs : s.regsWf) : m.wf := by
  obtain ⟨xs, hx, hm⟩ := except_bind_eq_ok.1 h
  cases hm
  exact realBlock_wf (hlen xs (realBlock_length (hs _ _ (State.depthOperand_ok.1 hx).1)))

/-- A basis result. -/
theorem orderResult_wf {top n k : Nat} {xs : List F64} {m : Matrix} (hk : n ≤ top → k ≤ 16) (h1 : 1 ≤ n → 1 ≤ k)
    (hlen : xs.length = k * k) (h : (needOrder top n >>= fun _ => pure (realSquare k xs)) = .ok m) : m.wf := by
  obtain ⟨u, hu, hm⟩ := except_bind_eq_ok.1 h
  obtain ⟨ha, hb⟩ := needOrder_ok.1 hu
  cases hm
  exact realSquare_wf (h1 ha) (hk hb) hlen

section
variable (s : State) (vd vs : Fin 8) (n d : Nat) (j : Fin 4)

theorem execMkc1_ends : Ends s vd (execMkc1 vd n s) :=
  s.finish_ends vd _ fun _ h _ =>
    orderResult_wf (fun hb => by simp only [orderMaxI, Config.dMax] at hb; omega) (fun ha => by omega)
      (by simp [basisSide]) h

theorem execMkc2_ends : Ends s vd (execMkc2 vd n s) :=
  s.finish_ends vd _ fun _ h _ =>
    orderResult_wf (fun hb => by simpa [orderMax, Config.dMax] using hb) id (by simp [basisSide]) h

theorem execMkc3_ends : Ends s vd (execMkc3 vd n s) :=
  s.finish_ends vd _ fun _ h _ =>
    orderResult_wf (fun hb => by simpa [orderMax, Config.dMax] using hb) id (by simp) h

theorem execMkc4_ends : Ends s vd (execMkc4 vd n s) :=
  s.finish_ends vd _ fun _ h _ =>
    orderResult_wf (fun hb => by simpa [orderMax, Config.dMax] using hb) id (by simp [basisSide]) h

theorem execMkomega_ends : Ends s vd (execMkomega vd n s) :=
  s.finish_ends vd _ fun m h _ => by
    obtain ⟨u, hu, hm⟩ := except_bind_eq_ok.1 h
    obtain ⟨ha, hb⟩ := needOrder_ok.1 hu
    cases hm
    exact cplxSquare_wf ha (Nat.mul_le_mul hb hb) (by simp)

theorem execDctk_ends : Ends s vd (execDctk vd vs s) :=
  s.finish_ends vd _ fun _ h hs => blockResult_wf (fun _ _ => by simp) h hs

theorem execIdctk_ends : Ends s vd (execIdctk vd vs s) :=
  s.finish_ends vd _ fun _ h hs => blockResult_wf (fun _ _ => by simp) h hs

theorem execDcto_ends : Ends s vd (execDcto vd vs s) :=
  s.finish_ends vd _ fun _ h hs => blockResult_wf (fun _ _ => by simp) h hs

theorem execIdcto_ends : Ends s vd (execIdcto vd vs s) :=
  s.finish_ends vd _ fun _ h hs => blockResult_wf (fun _ _ => by simp) h hs

theorem execQuant_ends : Ends s vd (execQuant vd vs s) :=
  s.finish_ends vd _ fun _ h hs => blockResult_wf (fun _ hx => by simpa using hx) h hs

theorem execDequant_ends : Ends s vd (execDequant vd vs s) :=
  s.finish_ends vd _ fun _ h hs => blockResult_wf (fun _ hx => by simpa using hx) h hs

theorem execCenter_ends : Ends s vd (execCenter vd vs d s) :=
  s.finish_ends vd _ fun _ h hs => depthResult_wf (fun _ hx => by simpa using hx) h hs

theorem execRecon_ends : Ends s vd (execRecon vd vs d s) :=
  s.finish_ends vd _ fun _ h hs => depthResult_wf (fun _ _ => by simp) h hs

theorem execQenc_ends : Ends s vd (execQenc vd vs d s) :=
  s.finish_ends vd _ fun _ h hs => depthResult_wf (fun _ _ => by simp) h hs

theorem execQdec_ends : Ends s vd (execQdec vd vs d s) :=
  s.finish_ends vd _ fun _ h hs => depthResult_wf (fun _ _ => by simp) h hs

theorem execVec2mat_ends : Ends s vd (execVec2mat vd vs s) :=
  s.finish_ends vd _ fun m h hs => by
    simp only [except_bind_eq_ok, State.readV_ok, Matrix.needVector_ok, needPerfectSquare_ok] at h
    obtain ⟨x, hx, len, ⟨-, rfl⟩, k, ⟨hk, hkk⟩, hm⟩ := h
    cases hm
    obtain ⟨-, -, h3, h4⟩ := hs _ _ hx
    exact ⟨hk, hk, hkk ▸ h3, hkk ▸ h4⟩

theorem execMat2vec_ends : Ends s vd (execMat2vec vd vs s) :=
  s.finish_ends vd _ fun m h hs => by
    simp only [except_bind_eq_ok, State.readV_ok, Matrix.needSquare_ok] at h
    obtain ⟨x, hx, k, ⟨hrc, rfl⟩, hm⟩ := h
    cases hm
    obtain ⟨h1, -, h3, h4⟩ := hs _ _ hx
    rw [← hrc] at h3 h4
    exact ⟨le_refl 1, Nat.mul_pos h1 h1, by simpa using h3, by simpa using h4⟩

theorem squareOperand_order {s : State} {vs : Fin 8} {k : Nat} {zs : List C64} (hs : s.regsWf)
    (h : s.squareOperand vs = .ok (k, zs)) : 1 ≤ k ∧ k * k ≤ 256 := by
  obtain ⟨e, he, -⟩ := State.squareOperand_ok.1 h
  obtain ⟨h1, -, h3, -⟩ := hs _ _ he
  exact ⟨h1, h3⟩

theorem execDft_ends : Ends s vd (execDft vd vs s) :=
  s.finish_ends vd _ fun m h hs => by
    obtain ⟨⟨k, zs⟩, hx, hm⟩ := except_bind_eq_ok.1 h
    cases hm
    obtain ⟨h1, h2⟩ := squareOperand_order hs hx
    exact cplxSquare_wf h1 h2 (by simp)

theorem execIdft_ends : Ends s vd (execIdft vd vs s) :=
  s.finish_ends vd _ fun m h hs => by
    obtain ⟨⟨k, zs⟩, hx, hm⟩ := except_bind_eq_ok.1 h
    cases hm
    obtain ⟨h1, h2⟩ := squareOperand_order hs hx
    exact cplxSquare_wf h1 h2 (by simp)

theorem execDft8_ends : Ends s vd (execDft8 vd vs s) :=
  s.finish_ends vd _ fun m h _ => by
    obtain ⟨zs, -, hm⟩ := except_bind_eq_ok.1 h
    cases hm
    exact cplxSquare_wf (by omega) (by omega) (by simp)

theorem execIdft8_ends : Ends s vd (execIdft8 vd vs s) :=
  s.finish_ends vd _ fun m h _ => by
    obtain ⟨zs, -, hm⟩ := except_bind_eq_ok.1 h
    cases hm
    exact cplxSquare_wf (by omega) (by omega) (by simp)

theorem execApplymask_ends : Ends s vd (execApplymask vd vs j s) :=
  s.finish_ends vd _ fun m h hs => by
    obtain ⟨⟨xs, w⟩, hx, hm⟩ := except_bind_eq_ok.1 h
    cases hm
    exact realBlock_wf (by simpa using realBlock_length (hs _ _ (State.maskOperand_ok.1 hx).1))

end

/-- How a command ends, for every command. -/
inductive ExecEnds (i : Instr) (s : State) : Prop where
  | matrix (vd : Fin 8) (m : Matrix) (hd : i.destV = some vd) (h : exec i s = .next (s.writeV vd m).complete)
      (wf : s.regsWf → m.wf)
  | mask (j : Fin 4) (w : BitVec 64) (hd : i.destMask = some j) (h : exec i s = .next (s.writeMask j w).complete)
  | nothing (hd : i = .nop) (h : exec i s = .next s.complete)
  | raised (e : ErrCode) (h : exec i s = .next (s.raise e))

theorem ExecEnds.of_ends {i : Instr} {s : State} {vd : Fin 8} (hd : i.destV = some vd) (h : Ends s vd (exec i s)) :
    ExecEnds i s := by
  cases h with
  | commit m h wf => exact .matrix vd m hd h wf
  | raised e h => exact .raised e h

/-- What a command can do, for every command and every state. -/
theorem exec_ends (i : Instr) (s : State) : ExecEnds i s := by
  cases i with
  | nop => exact .nothing rfl rfl
  | mkc1 vd n => exact .of_ends rfl (execMkc1_ends s vd n)
  | mkc2 vd n => exact .of_ends rfl (execMkc2_ends s vd n)
  | mkc3 vd n => exact .of_ends rfl (execMkc3_ends s vd n)
  | mkc4 vd n => exact .of_ends rfl (execMkc4_ends s vd n)
  | mkomega vd n => exact .of_ends rfl (execMkomega_ends s vd n)
  | dctk vd vs => exact .of_ends rfl (execDctk_ends s vd vs)
  | idctk vd vs => exact .of_ends rfl (execIdctk_ends s vd vs)
  | dcto vd vs => exact .of_ends rfl (execDcto_ends s vd vs)
  | idcto vd vs => exact .of_ends rfl (execIdcto_ends s vd vs)
  | vec2mat vd vs => exact .of_ends rfl (execVec2mat_ends s vd vs)
  | mat2vec vd vs => exact .of_ends rfl (execMat2vec_ends s vd vs)
  | dft vd vs => exact .of_ends rfl (execDft_ends s vd vs)
  | idft vd vs => exact .of_ends rfl (execIdft_ends s vd vs)
  | dft8 vd vs => exact .of_ends rfl (execDft8_ends s vd vs)
  | idft8 vd vs => exact .of_ends rfl (execIdft8_ends s vd vs)
  | center vd vs d => exact .of_ends rfl (execCenter_ends s vd vs d)
  | quant vd vs => exact .of_ends rfl (execQuant_ends s vd vs)
  | dequant vd vs => exact .of_ends rfl (execDequant_ends s vd vs)
  | recon vd vs d => exact .of_ends rfl (execRecon_ends s vd vs d)
  | qenc vd vs d => exact .of_ends rfl (execQenc_ends s vd vs d)
  | qdec vd vs d => exact .of_ends rfl (execQdec_ends s vd vs d)
  | mkmask j pol k => exact .mask j (maskWord pol k) rfl rfl
  | applymask vd vs j => exact .of_ends rfl (execApplymask_ends s vd vs j)

end Sys2Proof.Machine
end

