-- ==== Sys2Proof/Laws/Mask.lean ====
section
/-! SUPPORT. What the mask words hold, bit by bit. -/

namespace Sys2Proof.Machine

/-- Bit i of a mask word is 0 exactly when cell i is kept (45_mask.md R282). -/
theorem maskWord_bit (pol : Policy) (k : Nat) {i : Nat} (h : i < 64) :
    (maskWord pol k).getLsbD i = !((keptCells pol k).contains i) := by
  simp only [maskWord]
  rw [BitVec.getLsbD_ofFnLE]
  simp [h]

/-- Every region has as many cells as its clamp bound says (45_mask.md R281). -/
theorem region_length (pol : Policy) : (region pol).length = kmax pol := by
  cases pol <;> decide +kernel

theorem region_nodup (pol : Policy) : (region pol).Nodup := List.nodup_range.filter _

theorem region_lt {pol : Policy} {i : Nat} (h : i ∈ region pol) : i < 64 := by
  simp only [region, List.mem_filter, List.mem_range] at h
  exact h.1

/-- The number of kept cells (45_mask.md R282). -/
theorem keptCells_length (pol : Policy) (k : Nat) : (keptCells pol k).length = min k (kmax pol) := by
  simp [keptCells, clamp, region_length]

/-- One cell of an applied mask (45_mask.md R283). -/
theorem maskCells_cell (w : BitVec 64) (xs : List F64) {i : Nat} (h : i < xs.length) :
    (maskCells w xs)[i]'(by simpa [maskCells] using h) = if w.getLsbD i then fpZero else xs[i] := by
  simp [maskCells]

end Sys2Proof.Machine
end

