-- ==== Sys2Proof/Laws/PerInstr.lean ====
section
/-! SUPPORT. Statements made per instruction. Family `RowMatch`: the word of a well-formed command matches its row of
spec/opcode_table.json, `(w AND mask) = match` (30_encoding.md R142, R151). -/

namespace Sys2Proof

/-- The low byte of a word is its own part. -/
theorem append_low (x : BitVec 24) (op : BitVec 8) :
    (x ++ op : BitVec (24 + 8)) = (x ++ 0#8) ||| op.setWidth (24 + 8) := by
  apply BitVec.eq_of_getLsbD_eq
  intro i hi
  rw [BitVec.getLsbD_or, BitVec.getLsbD_append, BitVec.getLsbD_append, BitVec.getLsbD_setWidth]
  by_cases h : i < 8
  · simp [h]; omega
  · have : op.getLsbD i = false := BitVec.getLsbD_of_ge op i (by omega)
    simp [h, this]

/-- The opcode is the low byte of a packed word. -/
theorem pack_op (pol : BitVec 2) (k imm : Nat) (mk : Fin 4) (vs vd : Fin 8) (op : BitVec 8) :
    pack pol k imm mk vs vd op = pack pol k imm mk vs vd 0 ||| op.setWidth 32 := append_low _ op

/-- A word whose fields lie outside the must-be-zero bits matches its row. -/
theorem row_of_fields {w m : Word} (op : BitVec 8) (hw : w &&& m = 0#32) (hm : m &&& 0xFF#32 = 0xFF#32) :
    (w ||| op.setWidth 32) &&& m = op.setWidth 32 := by
  have ho : op.setWidth 32 = op.setWidth 32 &&& 0xFF#32 := by revert op; decide +kernel
  calc (w ||| op.setWidth 32) &&& m = (w &&& m) ||| (op.setWidth 32 &&& m) := by
        ext i hi; simp; grind
    _ = op.setWidth 32 &&& m := by rw [hw]; simp
    _ = op.setWidth 32 &&& (m &&& 0xFF#32) := by
        conv_lhs => rw [ho]
        ext i hi; simp; grind
    _ = op.setWidth 32 := by rw [hm]; exact ho.symm

theorem packB_row (vd : Fin 8) {n : Nat} (h : fitsImm5 n = true) (op : BitVec 8) :
    packB vd n op &&& Format.b.mask = op.setWidth 32 := by
  have key : ∀ (vd : Fin 8) (n : Fin 32), packB vd n 0 &&& Format.b.mask = 0#32 := by decide +kernel
  have hz := key vd ⟨n, by simpa [fitsImm5] using h⟩
  simp only [packB] at hz ⊢
  rw [pack_op]
  exact row_of_fields op hz (by decide)

theorem packU_row (vd vs : Fin 8) (op : BitVec 8) :
    packU vd vs op &&& Format.u.mask = op.setWidth 32 := by
  have key : ∀ (vd vs : Fin 8), packU vd vs 0 &&& Format.u.mask = 0#32 := by decide +kernel
  have hz := key vd vs
  simp only [packU] at hz ⊢
  rw [pack_op]
  exact row_of_fields op hz (by decide)

theorem packD_row (vd vs : Fin 8) {d : Nat} (h : fitsImm5 d = true) (op : BitVec 8) :
    packD vd vs d op &&& Format.d.mask = op.setWidth 32 := by
  have key : ∀ (vd vs : Fin 8) (d : Fin 32), packD vd vs d 0 &&& Format.d.mask = 0#32 := by decide +kernel
  have hz := key vd vs ⟨d, by simpa [fitsImm5] using h⟩
  simp only [packD] at hz ⊢
  rw [pack_op]
  exact row_of_fields op hz (by decide)

theorem packMM_row (j : Fin 4) (pol : Policy) {k : Nat} (h : fitsK7 k = true) (op : BitVec 8) :
    packMM j pol.code k op &&& Format.mm.mask = op.setWidth 32 := by
  have key : ∀ (j : Fin 4) (p : BitVec 2) (k : Fin 128), packMM j p k 0 &&& Format.mm.mask = 0#32 := by decide +kernel
  have hz := key j pol.code ⟨k, by simpa [fitsK7] using h⟩
  simp only [packMM] at hz ⊢
  rw [pack_op]
  exact row_of_fields op hz (by decide)

theorem packMA_row (vd vs : Fin 8) (j : Fin 4) (op : BitVec 8) :
    packMA vd vs j op &&& Format.ma.mask = op.setWidth 32 := by
  have key : ∀ (vd vs : Fin 8) (j : Fin 4), packMA vd vs j 0 &&& Format.ma.mask = 0#32 := by decide +kernel
  have hz := key vd vs j
  simp only [packMA] at hz ⊢
  rw [pack_op]
  exact row_of_fields op hz (by decide)

namespace Laws.RowMatch

/-- The word of the command, when it is well formed, matches its row of the opcode table. -/
def Statement (i : Instr) : Prop := i.wellFormed = true → encode i &&& i.format.mask = i.opcode.setWidth 32

theorem nop : Statement .nop := fun _ => by decide +kernel
theorem mkc1 (vd : Fin 8) (n : Nat) : Statement (.mkc1 vd n) := fun h => packB_row vd h _
theorem mkc2 (vd : Fin 8) (n : Nat) : Statement (.mkc2 vd n) := fun h => packB_row vd h _
theorem mkc3 (vd : Fin 8) (n : Nat) : Statement (.mkc3 vd n) := fun h => packB_row vd h _
theorem mkc4 (vd : Fin 8) (n : Nat) : Statement (.mkc4 vd n) := fun h => packB_row vd h _
theorem mkomega (vd : Fin 8) (n : Nat) : Statement (.mkomega vd n) := fun h => packB_row vd h _
theorem dctk (vd vs : Fin 8) : Statement (.dctk vd vs) := fun _ => packU_row vd vs _
theorem idctk (vd vs : Fin 8) : Statement (.idctk vd vs) := fun _ => packU_row vd vs _
theorem dcto (vd vs : Fin 8) : Statement (.dcto vd vs) := fun _ => packU_row vd vs _
theorem idcto (vd vs : Fin 8) : Statement (.idcto vd vs) := fun _ => packU_row vd vs _
theorem vec2mat (vd vs : Fin 8) : Statement (.vec2mat vd vs) := fun _ => packU_row vd vs _
theorem mat2vec (vd vs : Fin 8) : Statement (.mat2vec vd vs) := fun _ => packU_row vd vs _
theorem dft (vd vs : Fin 8) : Statement (.dft vd vs) := fun _ => packU_row vd vs _
theorem idft (vd vs : Fin 8) : Statement (.idft vd vs) := fun _ => packU_row vd vs _
theorem dft8 (vd vs : Fin 8) : Statement (.dft8 vd vs) := fun _ => packU_row vd vs _
theorem idft8 (vd vs : Fin 8) : Statement (.idft8 vd vs) := fun _ => packU_row vd vs _
theorem quant (vd vs : Fin 8) : Statement (.quant vd vs) := fun _ => packU_row vd vs _
theorem dequant (vd vs : Fin 8) : Statement (.dequant vd vs) := fun _ => packU_row vd vs _
theorem center (vd vs : Fin 8) (d : Nat) : Statement (.center vd vs d) := fun h => packD_row vd vs h _
theorem recon (vd vs : Fin 8) (d : Nat) : Statement (.recon vd vs d) := fun h => packD_row vd vs h _
theorem qenc (vd vs : Fin 8) (d : Nat) : Statement (.qenc vd vs d) := fun h => packD_row vd vs h _
theorem qdec (vd vs : Fin 8) (d : Nat) : Statement (.qdec vd vs d) := fun h => packD_row vd vs h _
theorem mkmask (mk : Fin 4) (pol : Policy) (k : Nat) : Statement (.mkmask mk pol k) := fun h => packMM_row mk pol h _
theorem applymask (vd vs : Fin 8) (mk : Fin 4) : Statement (.applymask vd vs mk) := fun _ => packMA_row vd vs mk _

end Laws.RowMatch

end Sys2Proof
end

