-- ==== Sys2Proof/Laws/Window.lean ====
section
/-! SUPPORT. What an access of the host can do, said once: a read changes the read latches and HERR only, and a write does
one of a few things. -/

namespace Sys2Proof.Machine

/-- A read changes the two read latches and HERR and nothing else, and never clears HERR (20_memory.md R108). -/
theorem State.readReg_state (s : State) (r : WinReg) :
    ∃ a b h, (s.readReg r).1 = { s with rhiRe := a, rhiIm := b, herr := h } ∧ (s.herr = true → h = true) := by
  have same : ∃ a b h, s = { s with rhiRe := a, rhiIm := b, herr := h } ∧ (s.herr = true → h = true) :=
    ⟨s.rhiRe, s.rhiIm, s.herr, rfl, id⟩
  cases r with
  | dreLo =>
    simp only [State.readReg, State.readDreLo]
    split
    · exact ⟨_, s.rhiIm, s.herr, rfl, id⟩
    · exact ⟨_, s.rhiIm, true, rfl, fun _ => rfl⟩
  | dimLo =>
    simp only [State.readReg, State.readDimLo]
    split
    · exact ⟨s.rhiRe, _, s.herr, rfl, id⟩
    · exact ⟨s.rhiRe, _, true, rfl, fun _ => rfl⟩
  | mkLo j =>
    simp only [State.readReg, State.readMaskHalf]
    split
    · exact same
    · exact ⟨s.rhiRe, s.rhiIm, true, rfl, fun _ => rfl⟩
  | mkHi j =>
    simp only [State.readReg, State.readMaskHalf]
    split
    · exact same
    · exact ⟨s.rhiRe, s.rhiIm, true, rfl, fun _ => rfl⟩
  | ident => exact same
  | config => exact same
  | cmd => exact same
  | status => exact same
  | errcmd => exact same
  | ctrl => exact same
  | dsel => exact same
  | dshape => exact same
  | didx => exact same
  | dreHi => exact same
  | dimHi => exact same
  | vvalid => exact same
  | mkvalid => exact same
  | reserved => exact same

/-- The outcomes of a 32-bit write. -/
inductive WriteDoes (s : State) : WinReg → Word → State → Prop where
  | ignored : WriteDoes s .reserved w s
  | refused (r : WinReg) (h : r ≠ .ctrl) (h' : r ≠ .cmd) : WriteDoes s r w s.setHerr
  | issues : WriteDoes s .cmd w (s.issueDrawn w)
  | control : WriteDoes s .ctrl w (s.writeCtrl w)
  | select (k : Fin 8) : WriteDoes s .dsel w { s with vsel := k }
  | index (i : BitVec 16) : WriteDoes s .didx w { s with idx := i }
  | latchRe (x : Word) : WriteDoes s .dreLo w { s with wloRe := x }
  | latchIm (x : Word) : WriteDoes s .dimLo w { s with wloIm := x }
  | element (r : WinReg) (h : r ≠ .ctrl) (h' : r ≠ .cmd) (m : Matrix) (wf : s.regsWf → m.wf) :
      WriteDoes s r w (s.writeV s.vsel m)

theorem zeroMatrix_wf {rows cols : Nat} (h : ¬(rows = 0 ∨ cols = 0 ∨ Config.cap < rows * cols)) (b : Bool) :
    (zeroMatrix rows cols b).wf := by
  refine ⟨?_, ?_, ?_, ?_⟩
  · simp only [zeroMatrix]; omega
  · simp only [zeroMatrix]; omega
  · simp only [zeroMatrix]; omega
  · cases b <;> simp [zeroMatrix, Elems.length]

@[simp] theorem Elems.setRe_length (e : Elems) (i : Nat) (x : F64) : (e.setRe i x).length = e.length := by
  cases e <;> simp [Elems.setRe, Elems.length]

theorem Elems.setIm_length {e e' : Elems} {i : Nat} {x : F64} (h : e.setIm i x = some e') : e'.length = e.length := by
  cases e with
  | real xs => cases h
  | cplx zs => cases h; simp [Elems.length]

theorem State.portMatrix_some {s : State} {m : Matrix} :
    s.portMatrix = some m ↔ s.v[s.vsel] = some m ∧ s.idx.toNat < m.rows * m.cols := by
  unfold State.portMatrix
  cases h : s.v[s.vsel] with
  | none => simp
  | some m' =>
    simp only
    split
    · simp only [Option.some.injEq]
      constructor
      · rintro rfl; exact ⟨rfl, by assumption⟩
      · exact fun h => h.1
    · simp only [reduceCtorEq, Option.some.injEq, false_iff, not_and]
      rintro rfl; assumption

/-- A write does one of a few things. -/
theorem State.writeReg_does (s : State) (r : WinReg) (w : Word) : WriteDoes s r w (s.writeReg r w) := by
  cases r with
  | ident => exact .refused _ (by simp) (by simp)
  | config => exact .refused _ (by simp) (by simp)
  | cmd => exact .issues
  | status => exact .refused _ (by simp) (by simp)
  | errcmd => exact .refused _ (by simp) (by simp)
  | ctrl => exact .control
  | dsel => exact .select _
  | dshape =>
    simp only [State.writeReg, State.writeDshape]
    split
    · exact .refused _ (by simp) (by simp)
    · rename_i h; exact .element _ (by simp) (by simp) _ fun _ => zeroMatrix_wf h _
  | didx => exact .index _
  | dreLo => exact .latchRe _
  | dreHi =>
    simp only [State.writeReg, State.writeDreHi]
    split
    · rename_i m hm
      refine .element _ (by simp) (by simp) _ fun hs => ?_
      obtain ⟨h1, h2, h3, h4⟩ := hs _ _ (State.portMatrix_some.1 hm).1
      exact ⟨h1, h2, h3, by simpa using h4⟩
    · exact .refused _ (by simp) (by simp)
  | dimLo => exact .latchIm _
  | dimHi =>
    simp only [State.writeReg, State.writeDimHi]
    split
    · rename_i m hm
      split
      · rename_i e he
        refine .element _ (by simp) (by simp) _ fun hs => ?_
        obtain ⟨h1, h2, h3, h4⟩ := hs _ _ (State.portMatrix_some.1 hm).1
        exact ⟨h1, h2, h3, (Elems.setIm_length he).trans h4⟩
      · exact .refused _ (by simp) (by simp)
    · exact .refused _ (by simp) (by simp)
  | vvalid => exact .refused _ (by simp) (by simp)
  | mkvalid => exact .refused _ (by simp) (by simp)
  | mkLo j => exact .refused _ (by simp) (by simp)
  | mkHi j => exact .refused _ (by simp) (by simp)
  | reserved => exact .ignored

/-- Everything a CTRL write can do (10_state.md R69). -/
theorem State.writeCtrl_cases (s : State) (w : Word) :
    (w.getLsbD 2 = true ∧ s.writeCtrl w = s.softReset) ∨
    (w.getLsbD 2 = false ∧ w.getLsbD 1 = true ∧ s.writeCtrl w = { s with irqEn := w.getLsbD 0 }.acknowledge) ∨
    (w.getLsbD 2 = false ∧ w.getLsbD 1 = false ∧ s.writeCtrl w = { s with irqEn := w.getLsbD 0 }) := by
  cases h2 : w.getLsbD 2 with
  | true =>
    cases h1 : w.getLsbD 1 <;>
      exact .inl ⟨rfl, by simp only [State.writeCtrl, h1, h2, if_true, Bool.false_eq_true, if_false]; rfl⟩
  | false =>
    cases h1 : w.getLsbD 1 with
    | true =>
      exact .inr (.inl ⟨rfl, rfl, by simp only [State.writeCtrl, h1, h2, if_true, Bool.false_eq_true, if_false]⟩)
    | false => exact .inr (.inr ⟨rfl, rfl, by simp only [State.writeCtrl, h1, h2, Bool.false_eq_true, if_false]⟩)

end Sys2Proof.Machine
end

