-- ==== Sys2Proof/Laws/Step.lean ====
section
/-! SUPPORT. What a step can do, said once. -/

namespace Sys2Proof.Machine

/-- The execute step: the decoded command's own end, or E_ILLEGAL (40_control.md R171). -/
inductive ExecuteEnds (s : State) (w : Word) : Prop where
  | command (i : Instr) (hd : decode w = .ok i) (h : s.execute w = exec i s)
  | illegal (r : DecodeReject) (hd : decode w = .error r) (h : s.execute w = .next (s.raise .illegal))

theorem State.execute_ends (s : State) (w : Word) : ExecuteEnds s w := by
  cases hd : decode w with
  | ok i => exact .command i hd (by simp [State.execute, hd])
  | error r => exact .illegal r hd (by simp [State.execute, hd])

/-- The three kinds of step, each with the condition under which it is the next one. -/
inductive StepIs (s : State) : Prop where
  | engine (p : Pending) (hp : s.pend = some p)
      (ht : s.script = [] ∨ p.wait = 0 ∨ ∃ ev rest, s.script = ev :: rest ∧ ev.held = true)
      (h : step s = s.execute p.word)
  | host (ev : HostEvent) (rest : List HostEvent) (hs : s.script = ev :: rest)
      (ht : s.pend = none ∨ ∃ p, s.pend = some p ∧ p.wait ≠ 0 ∧ ev.held = false)
      (h : step s = .next (s.hostMove ev rest))
  | idle (hp : s.pend = none) (hs : s.script = []) (h : step s = .next s)

theorem step_is (s : State) : StepIs s := by
  cases hp : s.pend with
  | none =>
    cases hs : s.script with
    | nil => exact .idle hp hs (by simp [step, State.turn, hp, hs])
    | cons ev rest => exact .host ev rest hs (.inl hp) (by simp [step, State.turn, hp, hs])
  | some p =>
    cases hs : s.script with
    | nil => exact .engine p hp (.inl hs) (by simp [step, State.turn, hp, hs])
    | cons ev rest =>
      by_cases h : p.wait = 0 ∨ ev.held = true
      · exact .engine p hp (h.elim (fun h => .inr (.inl h)) fun h => .inr (.inr ⟨ev, rest, hs, h⟩))
          (by simp [step, State.turn, hp, hs, h])
      · refine .host ev rest hs (.inr ⟨p, hp, fun h0 => h (.inl h0), ?_⟩) (by simp [step, State.turn, hp, hs, h])
        cases he : ev.held
        · rfl
        · exact absurd (.inr he) h

/-- A refused access sets HERR, changes nothing else and is answered by a bus error (20_memory.md R103). -/
theorem State.serve_refused (s : State) {a : Access} (h : a.defined = false) : s.serve a = (s.setHerr, .busError) := by
  simp [State.serve, h]

/-- A read of a register. -/
theorem State.serve_read (s : State) {a : Access} (h : a.defined = true) (ho : a.op = .read) :
    s.serve a = ((s.readReg (winReg a.off)).1, .data (s.readReg (winReg a.off)).2) := by
  simp [State.serve, h, ho]

/-- A write of a register. -/
theorem State.serve_write (s : State) {a : Access} {w : Word} (h : a.defined = true) (ho : a.op = .write w) :
    s.serve a = (s.writeReg (winReg a.off) w, .ack) := by
  simp [State.serve, h, ho]

/-- A 32-bit read at an aligned offset. -/
theorem State.serve_readAt (s : State) {off : BitVec 8} (h : off.extractLsb' 0 2 = 0#2) :
    s.serve (readAt off) = ((s.readReg (winReg off)).1, .data (s.readReg (winReg off)).2) :=
  s.serve_read (by simp [Access.defined, readAt, h]) rfl

/-- A 32-bit write at an aligned offset. -/
theorem State.serve_writeAt (s : State) {off : BitVec 8} (w : Word) (h : off.extractLsb' 0 2 = 0#2) :
    s.serve (writeAt off w) = (s.writeReg (winReg off) w, .ack) :=
  s.serve_write (by simp [Access.defined, writeAt, h]) rfl

end Sys2Proof.Machine
end

