-- ==== Sys2Proof/Tests/Slice0.lean ====
section
/-! SUPPORT. Smoke tests of WellFormed and Decode, a few steps with results written out in the spec, and for every
obligation with hypotheses a witness that meets them together. -/

namespace Sys2Proof.Tests

open Sys2Proof.Machine

/-! WellFormed refuses an immediate that its field cannot hold (30_encoding.md R141). -/

theorem test_wellFormed_order : (Instr.mkc1 0 32).wellFormed = false ∧ (Instr.mkc2 0 32).wellFormed = false ∧
    (Instr.mkc3 0 32).wellFormed = false ∧ (Instr.mkc4 0 32).wellFormed = false ∧
    (Instr.mkomega 0 32).wellFormed = false ∧ (Instr.mkc1 0 31).wellFormed = true := by decide

theorem test_wellFormed_depth : (Instr.center 0 0 32).wellFormed = false ∧ (Instr.recon 0 0 32).wellFormed = false ∧
    (Instr.qenc 0 0 40).wellFormed = false ∧ (Instr.qdec 0 0 264).wellFormed = false ∧
    (Instr.qdec 0 0 31).wellFormed = true := by decide

theorem test_wellFormed_keep : (Instr.mkmask 0 .lin 128).wellFormed = false ∧
    (Instr.mkmask 3 .quad 127).wellFormed = true := by decide

/-! Decoding: every constructor, from words written out from 30_encoding.md R141, R142, R148 (most of them the words of
the examples in 41_basis.md to 45_mask.md). -/

theorem test_decode_control_basis : decode 0x00000000 = .ok .nop ∧ decode 0x00020010 = .ok (.mkc1 0 2) ∧
    decode 0x00080111 = .ok (.mkc2 1 8) ∧ decode 0x00020212 = .ok (.mkc3 2 2) ∧ decode 0x00020313 = .ok (.mkc4 3 2) ∧
    decode 0x00040414 = .ok (.mkomega 4 4) := by decide

theorem test_decode_dct : decode 0x00000A20 = .ok (.dctk 2 1) ∧ decode 0x00001321 = .ok (.idctk 3 2) ∧
    decode 0x00000A22 = .ok (.dcto 2 1) ∧ decode 0x00001323 = .ok (.idcto 3 2) ∧
    decode 0x00000128 = .ok (.vec2mat 1 0) ∧ decode 0x00000A29 = .ok (.mat2vec 2 1) := by decide

theorem test_decode_dft : decode 0x00000130 = .ok (.dft 1 0) ∧ decode 0x00000A31 = .ok (.idft 2 1) ∧
    decode 0x00000132 = .ok (.dft8 1 0) ∧ decode 0x00000A33 = .ok (.idft8 2 1) := by decide

theorem test_decode_quant : decode 0x00080140 = .ok (.center 1 0 8) ∧ decode 0x00100140 = .ok (.center 1 0 16) ∧
    decode 0x00000A41 = .ok (.quant 2 1) ∧ decode 0x00001342 = .ok (.dequant 3 2) ∧
    decode 0x00080A43 = .ok (.recon 2 1 8) ∧ decode 0x00080144 = .ok (.qenc 1 0 8) ∧
    decode 0x00080A45 = .ok (.qdec 2 1 8) := by decide

theorem test_decode_mask : decode 0x11400050 = .ok (.mkmask 0 .diag 10) ∧
    decode 0x2FE0C050 = .ok (.mkmask 3 .quad 127) ∧ decode 0x00001351 = .ok (.applymask 3 2 0) ∧
    decode 0x0000FF51 = .ok (.applymask 7 7 3) := by decide

/-- One word bit by bit: POL = 01, K7 = 0001010, IMM5 = 0, MK = 10, VS = VD = 0, OP = 0x50. -/
theorem test_decode_bits :
    decode (0b00#2 ++ 0b01#2 ++ 0b0001010#7 ++ 0b00000#5 ++ 0b10#2 ++ 0b000#3 ++ 0b000#3 ++ 0x50#8) =
      .ok (.mkmask 2 .diag 10) := by decide

/-- Reserved opcodes, must-be-zero bits, POL = 3 (30_encoding.md R149, R150; 95_test_vectors.md). -/
theorem test_decode_illegal : decode 0x00000001 = .error .reservedOpcode ∧ decode 0x000000FF = .error .reservedOpcode ∧
    decode 0x00000024 = .error .reservedOpcode ∧ decode 0x00000100 = .error .nonzeroReserved ∧
    decode 0x40080111 = .error .nonzeroReserved ∧ decode 0x00080811 = .error .nonzeroReserved ∧
    decode 0x00010022 = .error .nonzeroReserved ∧ decode 0x31400050 = .error .reservedPolicy := by decide

theorem test_decodeTableWord : decodeTableWord 32 0x00001351 = some (.applymask 3 2 0) ∧
    decodeTableWord 32 0x31400050 = none := by decide

/-! Steps with results the spec writes out. -/

/-- The register windows of a state, without the opaque constants. -/
def afterCmd (w : Nat) (s : State) : Option State :=
  match step (s.withFetchWord 32 w) with
  | .next t => some t
  | .fault _ => none
  | .refused _ => none

/-- 40_control.md R177: NOP at reset gives STATUS = 0x00000002. -/
theorem test_nop_status : (afterCmd 0x00000000 State.reset).map State.statusWord = some 0x00000002 := by decide +kernel

/-- 60_exceptions.md R300, R302: a reserved opcode at reset gives ERR, code 1, and its word in ERRCMD. -/
theorem test_illegal_status : (afterCmd 0x000000FF State.reset).map (fun t => (t.statusWord, t.errcmd)) =
    some (0x00000106, 0x000000FF) := by decide +kernel

/-- 41_basis.md R192: n = 16 is no order of MKC1, and E_ORDER is code 7. -/
theorem test_mkc1_order : (afterCmd 0x00100010 State.reset).map State.statusWord = some 0x00000706 := by
  decide +kernel

/-- 41_basis.md R192: `mkc1 v0, 2` gives a 3×3 matrix. -/
theorem test_mkc1_shape : (afterCmd 0x00020010 State.reset).map (fun t => (t.v[0]).map fun m => (m.rows, m.cols)) =
    some (some (3, 3)) := by decide +kernel

/-- 60_exceptions.md R300: DCTO of an invalid register is E_UNINIT, code 5. -/
theorem test_dcto_uninit : (afterCmd 0x00000A22 State.reset).map State.statusWord = some 0x00000506 := by
  decide +kernel

/-- 45_mask.md R282: the example word and a row of each policy in the table. -/
theorem test_mkmask_words : maskWord .diag 10 = 0xFFFFFFFFFFFFFC00 ∧ maskWord .lin 63 = 0x8000000000000000 ∧
    maskWord .quad 15 = 0xFFFFFFFFF8F0F0F0 ∧ maskWord .diag 35 = 0xFFFCF8F0E0C08000 := by decide +kernel

/-- 45_mask.md R282: `mkmask mk0, diag, 10` at reset. -/
theorem test_mkmask_step : (afterCmd 0x11400050 State.reset).map (fun t => t.masks[0]) =
    some (some 0xFFFFFFFFFFFFFC00) := by decide +kernel

/-- 10_state.md R70, R71: IDENT and CONFIG of the default build. -/
theorem test_ident_config : (State.reset.serve (readAt 0x00)).2 = .data 0x44435407 ∧
    (State.reset.serve (readAt 0x04)).2 = .data 0x00024810 := by decide +kernel

/-- 44_quant.md R252: 100 at a cell with q = 11 gives 9. -/
theorem test_quant_cell : fpRnd .even 1 (fpDiv 1 (fpOfNat 100) (fpOfNat 11)) = fpOfNat 9 := by decide +kernel

/-- 44_quant.md R252: -40 and -8 at q = 16, -2.5 and -0.5, under both tie rules. -/
theorem test_quant_ties : fpRnd .even 0 0xC004000000000000 = 0xC000000000000000 ∧
    fpRnd .away 0 0xC004000000000000 = 0xC008000000000000 ∧ fpRnd .even 0 0xBFE0000000000000 = 0x8000000000000000 ∧
    fpRnd .away 0 0xBFE0000000000000 = 0xBFF0000000000000 := by decide +kernel

/-- 44_quant.md R253: 32 at q = 16 gives 512. -/
theorem test_dequant_cell : fpMul 0 (fpOfNat 32) (fpOfNat 16) = fpOfNat 512 := by decide +kernel

/-- 44_quant.md R251: 200 at depth 8 gives 72 and 40000 at depth 16 gives 7232. -/
theorem test_center_cell : fpSub 0 (fpOfNat 200) (halfRange 8) = fpOfNat 72 ∧
    fpSub 0 (fpOfNat 40000) (halfRange 16) = fpOfNat 7232 := by decide +kernel

/-- 44_quant.md R254: Y = 250 clips to 65535 and Y = 0 gives 32896. -/
theorem test_recon_cell : reconCell .even 8 0 (fpOfNat 250) = fpOfNat 65535 ∧
    reconCell .even 8 0 0x0000000000000000 = fpOfNat 32896 := by decide +kernel

/-- 10_state.md R58: `QTAB[7][3]` is 98, the entry at raster index 59. -/
theorem test_qtab_entry : qtabDefaultNat.length = 64 ∧ qtabDefaultNat[59]? = some 98 := by decide

/-! A state for witnesses: V0 8×8 REAL zeros, V1 8×8 CPLX, V2 1×4, V3 4×1, V4 2×2, V5 2×3, V6 1×3, V7 invalid; MK0 and
MK1 valid, MK2 and MK3 not. -/

/-- An 8×8 block of zeros. -/
def zeros : List F64 := List.replicate 64 0#64

def demo : State := { State.reset with
  v := #v[some ⟨8, 8, .real zeros⟩, some ⟨8, 8, .cplx (List.replicate 64 ⟨0#64, 0#64⟩)⟩,
    some ⟨1, 4, .real (List.replicate 4 1#64)⟩, some ⟨4, 1, .real (List.replicate 4 1#64)⟩,
    some ⟨2, 2, .real (List.replicate 4 1#64)⟩, some ⟨2, 3, .real (List.replicate 6 1#64)⟩,
    some ⟨1, 3, .real (List.replicate 3 1#64)⟩, none]
  masks := #v[some 0xFFFFFFFFFFFFFC00, some 1, none, none] }

theorem reset_rom_wf : State.reset.rom.wf := by
  refine ⟨rfl, rfl, rfl, rfl, rfl, fun x hx => ?_⟩
  obtain ⟨k, hk, rfl⟩ := List.mem_map.1 hx
  have key : ∀ k ∈ qtabDefaultNat, 1 ≤ k ∧ k ≤ 65535 := by decide
  exact ⟨k, (key k hk).1, (key k hk).2, rfl⟩

/-- A state with the registers and the constant store of `demo` meets the invariant when nothing is pending and MERR = 0. -/
theorem inv_of_demo (s : State) (hv : s.v = demo.v) (hr : s.rom = State.reset.rom) (hm : s.merr = false)
    (hp : ∀ p, s.pend = some p → s.done = false ∧ s.lastcmd = p.word) : s.Inv := by
  refine ⟨fun r m h => ?_, hr ▸ reset_rom_wf, hp, fun h => by rw [hm] at h; cases h⟩
  have key : ∀ r : Fin 8, ∀ m ∈ demo.v[r], m.wf := by decide +kernel
  rw [hv] at h
  exact key r m h

theorem demo_inv : demo.Inv := inv_of_demo demo rfl rfl rfl fun _ h => by cases h

/-- `demo` with a command pending and events to come. -/
def busyDemo (w : Word) (wait : Nat) (script : List HostEvent) : State := { demo.issue w wait with script := script }

theorem busyDemo_inv (w : Word) (wait : Nat) (script : List HostEvent) : (busyDemo w wait script).Inv :=
  inv_of_demo _ rfl rfl rfl fun p h => by cases h; exact ⟨rfl, rfl⟩

/-! Witnesses, in the order of the obligations. -/

theorem witness_DecodeOfEncode : (Instr.mkc1 7 31).wellFormed = true ∧ (Instr.mkmask 3 .quad 127).wellFormed = true ∧
    (Instr.qdec 7 7 0).wellFormed = true := by decide

theorem witness_EncodeOfDecode : decode 0x2FE0C050#32 = .ok (.mkmask 3 .quad 127) := by decide

theorem witness_IllegalWords : (busyDemo 0x31400050 0 []).pend = some ⟨0x31400050, 0⟩ ∧
    ¬∃ i, decode 0x31400050#32 = .ok i := by
  refine ⟨rfl, ?_⟩
  rintro ⟨i, h⟩
  rw [show decode 0x31400050#32 = .error .reservedPolicy by decide] at h
  cases h

theorem witness_StepRunsThePendingCommand :
    ((busyDemo 0 0 []).pend = some ⟨0, 0⟩ ∧ decode 0#32 = .ok .nop ∧ (busyDemo 0 0 []).script = []) ∧
    ((busyDemo 0 2 [.access (writeAt 0x18 0)]).pend = some ⟨0, 2⟩ ∧
      (busyDemo 0 2 [.access (writeAt 0x18 0)]).script = [.access (writeAt 0x18 0)] ∧
      HostEvent.held (.access (writeAt 0x18 0)) = true) ∧
    State.reset.pend = none ∧ State.reset.script = [] := by decide +kernel

theorem witness_CommandsArePure :
    demo.rom = { demo with herr := true }.rom ∧ demo.ties = { demo with herr := true }.ties ∧
    (∀ r : Fin 8, (Instr.dcto 1 0).srcV = some r → demo.v[r] = { demo with herr := true }.v[r]) ∧
    (∀ j : Fin 4, (Instr.dcto 1 0).srcMask = some j → demo.masks[j] = { demo with herr := true }.masks[j]) ∧
    demo ≠ { demo with herr := true } := by
  refine ⟨rfl, rfl, fun _ _ => rfl, fun _ _ => rfl, fun h => ?_⟩
  have := congrArg State.herr h
  cases this

theorem witness_ErrorsAreRecorded :
    ((busyDemo 0xFF 0 []).pend = some ⟨0xFF, 0⟩ ∧ (busyDemo 0xFF 0 []).err = none) ∧
    { demo with err := some ⟨.shape, 0x22⟩ }.err.isSome = true := ⟨⟨rfl, rfl⟩, rfl⟩

theorem witness_NopOnlyCompletes : (0x100#32 : Word) ≠ 0#32 ∧ (busyDemo 0x100 0 []).pend = some ⟨0x100, 0⟩ ∧
    (0x100#32).extractLsb' 0 8 = 0x00#8 := ⟨by decide, rfl, by decide⟩

theorem witness_BasisCommandsBuildTheirMatrix : (1 ≤ 1 ∧ 1 ≤ 15 ∧ 1 ≤ 16) ∧ (1 ≤ 15 ∧ 15 ≤ 15) ∧ 1 ≤ 16 ∧ 16 ≤ 16 := by
  decide

theorem witness_BasisOrderErrors : (0 = 0 ∨ 16 ≤ 0) ∧ (16 = 0 ∨ 16 ≤ 16) ∧ (17 = 0 ∨ 17 ≤ 17) ∧ (31 = 0 ∨ 17 ≤ 31) := by
  decide

theorem witness_OrderEightBasesAreTheConstants : State.reset.Inv :=
  ⟨fun r m h => by simp [State.reset, State.resetOf] at h, reset_rom_wf, fun _ h => (by cases h), fun h => (by cases h)⟩

theorem witness_ExactTransposes : zeros.length = 8 * 8 ∧ 0 < 8 ∧ 7 < 8 ∧
    (List.replicate 1 (⟨0#64, 0#64⟩ : C64)).length = 1 * 1 ∧ 0 < 1 := by decide

theorem witness_DctCommandResults : demo.v[(0 : Fin 8)] = some ⟨8, 8, .real zeros⟩ := rfl

theorem witness_BlockOperandErrors : demo.v[(7 : Fin 8)] = none ∧
    demo.v[(1 : Fin 8)] = some ⟨8, 8, .cplx (List.replicate 64 ⟨0#64, 0#64⟩)⟩ ∧
    (demo.v[(5 : Fin 8)] = some ⟨2, 3, .real (List.replicate 6 1#64)⟩ ∧ ¬(2 = 8 ∧ 3 = 8)) ∧
    demo.masks[(2 : Fin 4)] = none ∧ demo.masks[(0 : Fin 4)] = some 0xFFFFFFFFFFFFFC00#64 :=
  ⟨rfl, rfl, ⟨rfl, by decide⟩, rfl, rfl⟩

theorem witness_DepthOperandErrors : demo.v[(7 : Fin 8)] = none ∧
    demo.v[(1 : Fin 8)] = some ⟨8, 8, .cplx (List.replicate 64 ⟨0#64, 0#64⟩)⟩ ∧
    (demo.v[(0 : Fin 8)] = some ⟨8, 8, .real zeros⟩ ∧ 0 ≠ 8 ∧ 0 ≠ 16 ∧ 31 ≠ 8 ∧ 31 ≠ 16) ∧
    demo.v[(5 : Fin 8)] = some ⟨2, 3, .real (List.replicate 6 1#64)⟩ ∧ ¬(2 = 8 ∧ 3 = 8) :=
  ⟨rfl, rfl, ⟨rfl, by decide⟩, rfl, by decide⟩

theorem witness_ReshapeCommandsKeepElements : 1 ≤ 2 ∧
    demo.v[(2 : Fin 8)] = some ⟨1, 2 * 2, .real (List.replicate 4 1#64)⟩ ∧
    demo.v[(3 : Fin 8)] = some ⟨2 * 2, 1, .real (List.replicate 4 1#64)⟩ ∧
    demo.v[(4 : Fin 8)] = some ⟨2, 2, .real (List.replicate 4 1#64)⟩ := ⟨by decide, rfl, rfl, rfl⟩

/-- A 1×1 register: a row vector, a column vector and a square matrix at once. -/
theorem witness_ReshapeRoundTrip : 1 ≤ 1 ∧
    { demo with v := demo.v.set 6 (some ⟨1, 1 * 1, .cplx [⟨0#64, 0#64⟩]⟩) }.v[(6 : Fin 8)] =
      some ⟨1, 1 * 1, .cplx [⟨0#64, 0#64⟩]⟩ := ⟨by decide, rfl⟩

theorem witness_ReshapeAndDftErrors : demo.v[(7 : Fin 8)] = none ∧
    (demo.v[(5 : Fin 8)] = some ⟨2, 3, .real (List.replicate 6 1#64)⟩ ∧ (2 ≠ 1 ∧ 3 ≠ 1) ∧ 2 ≠ 3 ∧ ¬(2 = 8 ∧ 3 = 8)) ∧
    demo.v[(6 : Fin 8)] = some ⟨1, 3, .real (List.replicate 3 1#64)⟩ ∧ (1 = 1 ∨ 3 = 1) ∧
      ¬∃ n, 1 ≤ n ∧ n * n = 1 * 3 := by
  refine ⟨rfl, ⟨rfl, by decide⟩, rfl, by decide, ?_⟩
  rintro ⟨n, -, h⟩
  have : n < 2 := by nlinarith
  interval_cases n <;> omega

theorem witness_DftCommandResults : demo.v[(4 : Fin 8)] = some ⟨2, 2, .real (List.replicate 4 1#64)⟩ ∧
    demo.v[(1 : Fin 8)] = some ⟨8, 8, .cplx (List.replicate 64 ⟨0#64, 0#64⟩)⟩ := ⟨rfl, rfl⟩

theorem witness_Dft8IsDftAtOrderEight : demo.Inv ∧ demo.v[(0 : Fin 8)] = some ⟨8, 8, .real zeros⟩ := ⟨demo_inv, rfl⟩

theorem witness_RealOperandReadAsComplex :
    demo.v[(4 : Fin 8)] = some ⟨2, 2, .real (List.replicate 4 1#64)⟩ ∧
    (Instr.dft 4 4 = .dft8 4 4 ∨ Instr.dft 4 4 = .idft8 4 4 → 2 = 8) ∧
    demo.v[(0 : Fin 8)] = some ⟨8, 8, .real zeros⟩ := ⟨rfl, by decide, rfl⟩

theorem zeros_allZero : (Elems.real zeros).allZero := by
  intro z hz
  obtain ⟨x, hx, rfl⟩ := List.mem_map.1 hz
  rw [(List.mem_replicate.1 hx).2]
  decide

theorem witness_ZeroOperandGivesZeroTransform : 1 ≤ 8 ∧ 8 ≤ 16 ∧ demo.v[(0 : Fin 8)] = some ⟨8, 8, .real zeros⟩ ∧
    (Elems.real zeros).allZero ∧ (Elems.real zeros).isCplx = false ∧ ∀ x ∈ zeros, fpIsZero x = true :=
  ⟨by decide, by decide, rfl, zeros_allZero, rfl, List.all_eq_true.1 (by decide)⟩

theorem witness_ElementwiseCommandResults : demo.v[(0 : Fin 8)] = some ⟨8, 8, .real zeros⟩ ∧ (8 = 8 ∨ 8 = 16) ∧
    zeros[63]? = some 0#64 ∧ demo.rom.qtab[63]? = some (fpOfNat 99) := ⟨rfl, by decide, rfl, rfl⟩

/-- `demo` with other elements in V0. -/
def withBlock (xs : List F64) : State := { demo with v := demo.v.set 0 (some ⟨8, 8, .real xs⟩) }

theorem witness_CenterOfSampleIsExact :
    (withBlock (List.replicate 64 (fpOfNat 255))).v[(0 : Fin 8)] =
      some ⟨8, 8, .real (List.replicate 64 (fpOfNat 255))⟩ ∧
    (8 = 8 ∨ 8 = 16) ∧ 255 < 2 ^ 8 ∧ (List.replicate 64 (fpOfNat 255))[0]? = some (fpOfNat 255) ∧ 65535 < 2 ^ 16 :=
  ⟨rfl, by decide, by decide, rfl, by decide⟩

theorem withBlock_inv {xs : List F64} (h : xs.length = 64) : (withBlock xs).Inv := by
  refine ⟨fun r m hm => ?_, reset_rom_wf, fun _ h => (by cases h), fun h => (by cases h)⟩
  by_cases hr : r = 0
  · subst hr
    cases hm
    exact ⟨Nat.le_add_left 1 7, Nat.le_add_left 1 7, Nat.le_of_ble_eq_true rfl, h⟩
  · refine demo_inv.regs r m ?_
    rw [← hm]
    simp only [withBlock]
    rw [Fin.getElem_fin, Fin.getElem_fin, Vector.getElem_set, if_neg]
    exact fun h0 => hr (Fin.ext h0.symm)

/-- 7 at q = 16: 14 < 16. -/
theorem witness_SmallCoefficientsQuantizeToZero :
    (withBlock (fpOfNat 7 :: List.replicate 63 0#64)).Inv ∧
    (withBlock (fpOfNat 7 :: List.replicate 63 0#64)).v[(0 : Fin 8)] =
      some ⟨8, 8, .real (fpOfNat 7 :: List.replicate 63 0#64)⟩ ∧
    (fpOfNat 7 :: List.replicate 63 0#64)[0]? = some (fpOfNat 7) ∧
    (withBlock (fpOfNat 7 :: List.replicate 63 0#64)).rom.qtab[0]? = some (fpOfNat 16) ∧
    fpFinite (fpOfNat 7) = true ∧ 2 * |fpRat (fpOfNat 7)| < fpRat (fpOfNat 16) :=
  ⟨withBlock_inv rfl, rfl, rfl, rfl, by decide +kernel, by decide +kernel⟩

theorem witness_ReconCommandResult : (8 = 8 ∨ 8 = 16) ∧ (16 = 8 ∨ 16 = 16) ∧
    demo.v[(0 : Fin 8)] = some ⟨8, 8, .real zeros⟩ ∧ unpack 0x7FF0000000000000#64 = .inf false ∧
    unpack 0xFFF0000000000000#64 = .inf true ∧ fpIsNaN 0x7FF8000000000000#64 = true :=
  ⟨by decide, by decide, rfl, by decide +kernel, by decide +kernel, by decide +kernel⟩

theorem witness_ReconOfZeroBlock : demo.v[(0 : Fin 8)] = some ⟨8, 8, .real zeros⟩ ∧
    ∀ x ∈ zeros, fpIsZero x = true := by
  refine ⟨rfl, fun x hx => ?_⟩
  rw [(List.mem_replicate.1 hx).2]
  decide

theorem witness_ReconstructedSamplesAreInRange : demo.v[(0 : Fin 8)] = some ⟨8, 8, .real zeros⟩ ∧ (8 = 8 ∨ 8 = 16) ∧
    (∃ t, exec (.recon 1 0 8) demo = .next t) ∧ ∃ t, exec (.qdec 1 0 16) demo = .next t :=
  ⟨rfl, by decide, ⟨_, rfl⟩, ⟨_, rfl⟩⟩

theorem witness_CompositeCommandsAreTheirSteps : (8 = 8 ∨ 8 = 16) ∧ (16 = 8 ∨ 16 = 16) ∧
    demo.v[(0 : Fin 8)] = some ⟨8, 8, .real zeros⟩ := ⟨by decide, by decide, rfl⟩

/-- The build whose QTAB is all ones. -/
def onesTable : State := { demo with rom := ConstStore.ofBuild (List.replicate 64 0x3FF0000000000000#64) }

theorem witness_IdentityTableRoundTrip : onesTable.rom.qtab = List.replicate 64 0x3FF0000000000000#64 ∧
    zeros.length = 64 ∧ onesTable.v[(0 : Fin 8)] = some ⟨8, 8, .real zeros⟩ ∧ zeros[0]? = some 0#64 ∧
    fpIsNaN 0#64 = false := ⟨rfl, rfl, rfl, rfl, by decide +kernel⟩

/-- A block of integers that meets the bound with equality: 2^49 at a cell with q = 16, so |q·QTAB| = 2^53. -/
theorem witness_QuantOfDequantIsIdentity :
    (withBlock (fpOfNat (2 ^ 49) :: List.replicate 63 0#64)).Inv ∧
    (withBlock (fpOfNat (2 ^ 49) :: List.replicate 63 0#64)).v[(0 : Fin 8)] =
      some ⟨8, 8, .real (fpOfNat (2 ^ 49) :: List.replicate 63 0#64)⟩ ∧
    (∀ (i : Nat) (x q : F64), (fpOfNat (2 ^ 49) :: List.replicate 63 0#64)[i]? = some x →
      (withBlock (fpOfNat (2 ^ 49) :: List.replicate 63 0#64)).rom.qtab[i]? = some q →
      fpFinite x = true ∧ (∃ k : Int, fpRat x = k) ∧ |fpRat x * fpRat q| ≤ 2 ^ 53) ∧
    |fpRat (fpOfNat (2 ^ 49)) * fpRat (fpOfNat 16)| = 2 ^ 53 := by
  have hz : fpRat 0#64 = 0 := by decide +kernel
  have hb : fpRat (fpOfNat (2 ^ 49)) = ((2 ^ 49 : Int) : Rat) := by decide +kernel
  refine ⟨withBlock_inv rfl, rfl, fun i x q hx hq => ?_, by decide +kernel⟩
  cases i with
  | zero =>
    have hq' : (withBlock (fpOfNat (2 ^ 49) :: List.replicate 63 0#64)).rom.qtab[0]? = some (fpOfNat 16) := rfl
    rw [hq'] at hq
    cases hx
    cases hq
    exact ⟨by decide +kernel, ⟨_, hb⟩, by decide +kernel⟩
  | succ i =>
    have hx0 : x = 0#64 := by
      simp only [List.getElem?_cons_succ, List.getElem?_replicate] at hx
      split at hx
      · exact (Option.some.inj hx).symm
      · cases hx
    subst hx0
    exact ⟨by decide +kernel, ⟨0, by rw [hz]; rfl⟩, by rw [hz, zero_mul, abs_zero]; positivity⟩

theorem witness_MaskProperties : demo.v[(0 : Fin 8)] = some ⟨8, 8, .real zeros⟩ ∧
    demo.masks[(0 : Fin 4)] = some 0xFFFFFFFFFFFFFC00#64 ∧ demo.masks[(1 : Fin 4)] = some 1#64 := ⟨rfl, rfl, rfl⟩

theorem witness_ApplymaskResult : demo.v[(0 : Fin 8)] = some ⟨8, 8, .real zeros⟩ ∧
    demo.masks[(0 : Fin 4)] = some 0xFFFFFFFFFFFFFC00#64 ∧ zeros[63]? = some 0#64 := ⟨rfl, rfl, rfl⟩

theorem witness_ResetValues :
    ({ demo with script := [.hardReset] }.script = [.hardReset] ∧ { demo with script := [.hardReset] }.pend = none) ∧
    ((busyDemo 0 1 [.hardReset]).script = [.hardReset] ∧ (busyDemo 0 1 [.hardReset]).pend = some ⟨0, 1⟩ ∧ 1 ≠ 0) ∧
    demo.hardReset = demo.hardReset ∧ demo.softReset ≠ demo := by
  refine ⟨⟨rfl, rfl⟩, ⟨rfl, rfl, by decide⟩, rfl, fun h => ?_⟩
  have := congrArg (fun s : State => (s.v[0]).isSome) h
  simp [State.softReset, State.hardReset, State.resetOf, demo] at this

theorem witness_InvariantAtReset : qtabLegal (List.replicate 64 0x3FF0000000000000#64) :=
  ⟨rfl, fun x hx => ⟨1, by decide, by decide, by rw [(List.mem_replicate.1 hx).2]; decide +kernel⟩⟩

theorem witness_InvariantKeptByStep : (busyDemo 0x00000128 0 []).Inv ∧ ∃ t, step (busyDemo 0x00000128 0 []) = .next t :=
  ⟨busyDemo_inv _ _ _, ⟨_, rfl⟩⟩

/-- Two reads ahead of the engine; a read and then the reset input ahead of it. -/
theorem witness_PendingCommandCompletes :
    (busyDemo 0 2 [.access (readAt 0x0C), .access (readAt 0x00)]).pend = some ⟨0, 2⟩ ∧
    (busyDemo 0 2 [.access (readAt 0x0C), .hardReset]).pend = some ⟨0, 2⟩ := ⟨rfl, rfl⟩

theorem witness_HoldRule :
    ((busyDemo 0 2 [.access (writeAt 0x18 0)]).pend = some ⟨0, 2⟩ ∧ (writeAt 0x18 0).held = true) ∧
    ((busyDemo 0 1 [.access (readAt 0x0C)]).pend = some ⟨0, 1⟩ ∧ (readAt 0x0C).held = false ∧ 1 ≠ 0) ∧
    (readAt 0x00).held = false ∧ (readAt 0x04).held = false ∧ (readAt 0x08).held = true ∧
    { demo with script := [.access (readAt 0x08)] }.pend = none := by decide +kernel

theorem witness_CmdWriteIssues : { demo with script := [.access (writeAt 0x08 0xFF)] }.pend = none ∧
    { demo with script := [.access (writeAt 0x08 0xFF)] }.script = [.access (writeAt 0x08 0xFF)] := ⟨rfl, rfl⟩

theorem witness_StatusWordFields : demo.err = none ∧
    { demo with err := some ⟨.order, 0x10⟩ }.err = some ⟨.order, 0x10⟩ := ⟨rfl, rfl⟩

theorem witness_CtrlAccess : ((1#32).getLsbD 2 = false ∧ (1#32).getLsbD 1 = false) ∧
    ((3#32).getLsbD 2 = false ∧ (3#32).getLsbD 1 = true) ∧ (7#32).getLsbD 2 = true := by decide

theorem witness_InterruptIsALevel :
    ((busyDemo 0 0 []).Inv ∧ (busyDemo 0 0 []).pend = some ⟨0, 0⟩ ∧ ∃ t, (busyDemo 0 0 []).execute 0 = .next t) ∧
    ((2#32).getLsbD 1 = true ∨ (2#32).getLsbD 0 = false ∨ (2#32).getLsbD 2 = true) ∧
    { demo with done := true }.done = true ∧ (1#32).getLsbD 0 = true ∧ (1#32).getLsbD 1 = false ∧
    (1#32).getLsbD 2 = false := ⟨⟨busyDemo_inv _ _ _, rfl, ⟨_, rfl⟩⟩, by decide, rfl, by decide⟩

/-- All three flags set, and a failing command pending. -/
def flagged : State := { busyDemo 0xFF 0 [] with err := some ⟨.shape, 0x22⟩, merr := true, herr := true }

theorem flagged_turn : flagged.turn = .engine 0xFF := rfl

theorem witness_StickyFlagsStay : (∃ t, step flagged = .next t) ∧ ¬flagged.clearsNext ∧
    flagged.err = some ⟨.shape, 0x22⟩ ∧ flagged.merr = true ∧ flagged.herr = true := by
  refine ⟨⟨_, rfl⟩, ?_, rfl, rfl, rfl⟩
  rintro (⟨ev, rest, h, -⟩ | ⟨rest, w, h, -⟩)
  · rw [flagged_turn] at h; cases h
  · rw [flagged_turn] at h; cases h

/-- `demo` with one write to come. -/
def writing (off : BitVec 8) (w : Word) : State := { demo with script := [.access (writeAt off w)] }

theorem writing_resetsNext {off : BitVec 8} (w : Word) (h : off ≠ 0x14) : ¬(writing off w).resetsNext := by
  rintro ⟨ev, rest, ht, hev⟩
  rw [show (writing off w).turn = .host (.access (writeAt off w)) [] from rfl] at ht
  cases ht
  rcases hev with hev | ⟨v, hev, -⟩
  · cases hev
  · exact h (congrArg Access.off (HostEvent.access.inj hev))

/-- A step that changes VSEL and one that changes IDX, neither a reset. -/
theorem witness_DshapeAccess_select :
    (∃ t, step (writing 0x18 0xFFFFFFFF) = .next t ∧ t.vsel ≠ (writing 0x18 0xFFFFFFFF).vsel) ∧
    ¬(writing 0x18 0xFFFFFFFF).resetsNext ∧
    (∃ t, step (writing 0x20 0x00010005) = .next t ∧ t.idx ≠ (writing 0x20 0x00010005).idx) ∧
    ¬(writing 0x20 0x00010005).resetsNext :=
  ⟨⟨_, rfl, by decide +kernel⟩, writing_resetsNext _ (by decide), ⟨_, rfl, by decide +kernel⟩,
    writing_resetsNext _ (by decide)⟩

/-- 95_test_vectors.md, rows 18 and 19 of its table: a DSEL write keeps bits 2:0 and a DIDX write bits 15:0. -/
theorem test_dsel_didx : ((State.reset.serve (writeAt 0x18 0xFFFFFFFF)).1.serve (readAt 0x18)).2 = .data 0x00000007 ∧
    ((State.reset.serve (writeAt 0x20 0x00010005)).1.serve (readAt 0x20)).2 = .data 0x00000005 := by decide +kernel

/-- 0 rows; no columns; 1×257; and the legal extremes 16×16 REAL and 1×256 CPLX. -/
theorem witness_DshapeAccess :
    ((0x00010000#32).extractLsb' 0 9).toNat = 0 ∧ ((0x00000001#32).extractLsb' 16 9).toNat = 0 ∧
    256 < ((0x01010001#32).extractLsb' 0 9).toNat * ((0x01010001#32).extractLsb' 16 9).toNat ∧
    (((0x00100010#32).extractLsb' 0 9).toNat = 16 ∧ ((0x00100010#32).extractLsb' 16 9).toNat = 16 ∧ 16 * 16 ≤ 256 ∧
      (0x00100010#32).getLsbD 31 = false) ∧
    (((0x81000001#32).extractLsb' 0 9).toNat = 1 ∧ ((0x81000001#32).extractLsb' 16 9).toNat = 256 ∧ 1 * 256 ≤ 256 ∧
      (0x81000001#32).getLsbD 31 = true) ∧
    { demo with vsel := 7 }.v[{ demo with vsel := 7 }.vsel] = none := by decide +kernel

/-- The last element of a REAL register; the one past it; an element of a CPLX register; an invalid register. -/
theorem witness_ElementWrites :
    ({ demo with idx := 63 }.v[{ demo with idx := 63 }.vsel] = some ⟨8, 8, .real zeros⟩ ∧ 63 < 8 * 8) ∧
    { demo with idx := 64 }.portFails ∧ { demo with vsel := 7 }.portFails ∧
    { demo with vsel := 1 }.v[{ demo with vsel := 1 }.vsel] =
      some ⟨8, 8, .cplx (List.replicate 64 ⟨0#64, 0#64⟩)⟩ ∧
    (List.replicate 64 (⟨0#64, 0#64⟩ : C64))[0]? = some ⟨0#64, 0#64⟩ :=
  ⟨⟨rfl, by decide⟩, .inr ⟨_, rfl, by decide⟩, .inl rfl, rfl, rfl⟩

theorem witness_ElementReads :
    { demo with idx := 63 }.v[{ demo with idx := 63 }.vsel] = some ⟨8, 8, .real zeros⟩ ∧ 63 < 8 * 8 ∧
    zeros[63]? = some 0#64 ∧ { demo with idx := 64 }.portFails ∧
    { demo with vsel := 1 }.v[{ demo with vsel := 1 }.vsel] =
      some ⟨8, 8, .cplx (List.replicate 64 ⟨0#64, 0#64⟩)⟩ :=
  ⟨rfl, by decide, rfl, .inr ⟨_, rfl, by decide⟩, rfl⟩

theorem witness_ElementRoundTrip : ({ demo with vsel := 1, idx := 63 } : State).Inv ∧
    { demo with vsel := 1, idx := 63 }.v[{ demo with vsel := 1, idx := 63 }.vsel] =
      some ⟨8, 8, .cplx (List.replicate 64 ⟨0#64, 0#64⟩)⟩ ∧
    (63#16).toNat < 8 * 8 ∧ (Elems.cplx (List.replicate 64 ⟨0#64, 0#64⟩)).isCplx = true :=
  ⟨inv_of_demo _ rfl rfl rfl fun _ h => (by cases h), rfl, by decide, rfl⟩

theorem witness_HostAccessErrors : (8 ≠ 32 ∨ (0x0C#8).toNat % 4 ≠ 0) ∧ (32 ≠ 32 ∨ (0x0D#8).toNat % 4 ≠ 0) ∧
    ((0#32).extractLsb' 0 9).toNat = 0 ∧ { demo with idx := 64 }.portFails ∧
    (demo.v[demo.vsel] = some ⟨8, 8, .real zeros⟩ ∧ (Elems.real zeros).isCplx = false) ∧
    demo.masks[(3 : Fin 4)] = none ∧ { demo with herr := true }.herr = true ∧ ∀ w, readAt 0x0C ≠ writeAt 0x14 w :=
  ⟨by decide, by decide, by decide, .inr ⟨_, rfl, by decide⟩, ⟨rfl, rfl⟩, rfl, rfl, fun _ h => by cases h⟩

theorem witness_ReadOnlyRegisters : demo.masks[(0 : Fin 4)] = some 0xFFFFFFFFFFFFFC00#64 ∧
    demo.masks[(3 : Fin 4)] = none ∧ demo.ties = .even ∧ demo.rom.qtab = qtabDefault ∧
    (0x60#8).toNat % 4 = 0 ∧ 0x60 ≤ (0x60#8).toNat ∧ (0xFC#8).toNat % 4 = 0 ∧ (0x3C#8).toNat % 4 = 0 :=
  ⟨rfl, rfl, rfl, rfl, by decide, by decide, by decide, by decide⟩

theorem witness_ConstantStoreNeverChanges :
    ({ demo with script := [.hardReset] } : State).Inv ∧ ∃ t, step { demo with script := [.hardReset] } = .next t :=
  ⟨inv_of_demo _ rfl rfl rfl fun _ h => (by cases h), ⟨_, rfl⟩⟩

theorem busyMkmask_turn : (busyDemo 0x11400050 0 []).turn = .engine 0x11400050 := rfl

theorem witness_OnlyMkmaskAndResetWriteMasks : (∃ t, step (busyDemo 0x11408050 0 []) = .next t ∧
      t.masks[(2 : Fin 4)] ≠ (busyDemo 0x11408050 0 []).masks[(2 : Fin 4)]) ∧
    ¬(busyDemo 0x11400050 0 []).resetsNext ∧ ((busyDemo 0x11400050 0 []).v[(0 : Fin 8)]).isSome = true ∧
    ((busyDemo 0x11400050 0 []).masks[(0 : Fin 4)]).isSome = true := by
  refine ⟨⟨_, rfl, by decide +kernel⟩, ?_, rfl, rfl⟩
  rintro ⟨ev, rest, h, -⟩
  rw [busyMkmask_turn] at h
  cases h

/-- The largest finite value, and the sum that overflows; 1 and 1 below the bound; a nonzero divisor. -/
theorem witness_ArithmeticIsCorrectlyRounded :
    fpFinite 0x7FEFFFFFFFFFFFFF#64 = true ∧ fpFinite 0x3FF0000000000000#64 = true ∧
    (2 : ℝ) ^ 1024 - 2 ^ 970 ≤ fpReal 0x7FEFFFFFFFFFFFFF#64 + fpReal 0x7FEFFFFFFFFFFFFF#64 ∧
    |fpReal 0x3FF0000000000000#64 + fpReal 0x3FF0000000000000#64| < 2 ^ 1024 - 2 ^ 970 ∧
    fpReal 0x3FF0000000000000#64 ≠ 0 := by
  have h1 : fpReal 0x3FF0000000000000#64 = 1 := by
    rw [fpReal, show fpRat 0x3FF0000000000000#64 = 1 by decide +kernel]; norm_num
  have h2 : fpReal 0x7FEFFFFFFFFFFFFF#64 = 2 ^ 1024 - 2 ^ 971 := by
    rw [fpReal, show fpRat 0x7FEFFFFFFFFFFFFF#64 = 2 ^ 1024 - 2 ^ 971 by decide +kernel]; norm_num
  have h3 : (2 : ℝ) ^ 1024 = 18014398509481984 * 2 ^ 970 := by
    rw [show (18014398509481984 : ℝ) = 2 ^ 54 by norm_num, ← pow_add]
  have h4 : (2 : ℝ) ^ 971 = 2 * 2 ^ 970 := by rw [← pow_succ']
  have h5 : (1 : ℝ) ≤ 2 ^ 970 := one_le_pow₀ (by norm_num)
  refine ⟨by decide +kernel, by decide +kernel, ?_, ?_, by rw [h1]; norm_num⟩
  · rw [h2, h3, h4]; clear h1 h2 h3 h4; generalize (2 : ℝ) ^ 970 = t at h5 ⊢; linarith
  · rw [h1, h3, abs_of_nonneg (by norm_num)]; clear h1 h2 h3 h4; generalize (2 : ℝ) ^ 970 = t at h5 ⊢; linarith

theorem witness_SpecialValues : fpIsNaN 0x7FF8000000000000#64 = true ∧ unpack 0x7FF0000000000000#64 = .inf false ∧
    unpack 0xFFF0000000000000#64 = .inf true ∧ fpIsZero 0x8000000000000000#64 = true ∧
    fpFinite 0x8000000000000000#64 = true ∧ fpIsZero 0x3FF0000000000000#64 = false ∧
    fpFinite 0x3FF0000000000000#64 = true ∧
    fpIsNaN (fpMul 0 0x8000000000000000#64 0x3FF0000000000000#64) = false ∧
    fpIsNaN (fpDiv 0 0x8000000000000000#64 0x3FF0000000000000#64) = false := by decide +kernel

/-- 1 - 1 and 1 + -1 are exact zeros. -/
theorem witness_SpecialValues_zero : fpReal 0x3FF0000000000000#64 - fpReal 0x3FF0000000000000#64 = 0 ∧
    fpReal 0x3FF0000000000000#64 + fpReal 0xBFF0000000000000#64 = 0 := by
  rw [fpReal, fpReal, show fpRat 0x3FF0000000000000#64 = 1 by decide +kernel,
    show fpRat 0xBFF0000000000000#64 = -1 by decide +kernel]
  norm_num

theorem witness_RoundAndClip : fpFinite 0xC004000000000000#64 = true ∧ unpack 0xFFF0000000000000#64 = .inf true ∧
    fpIsNaN 0x7FF0000000000001#64 = true ∧ fpFinite 0x0000000000000000#64 = true ∧
    fpFinite 0x40EFFFE000000000#64 = true := by decide +kernel

theorem fpReal_zero : fpReal 0#64 = 0 := by
  rw [fpReal, show fpRat 0#64 = 0 by decide +kernel]
  norm_num

theorem zeros_all : zeros.all fpIsZero = true := by decide

theorem signOnly_real (x : F64) : fpFinite (fpSignOnly x) = true ∧ fpReal (fpSignOnly x) = 0 := by
  rcases fpSignOnly_cases x with hx | hx <;> rw [hx]
  · exact ⟨by decide +kernel, fpReal_zero⟩
  · refine ⟨by decide +kernel, ?_⟩
    rw [fpReal, show fpRat 0x8000000000000000#64 = 0 by decide +kernel]
    norm_num

theorem zeros_cell (l r : List F64) (i : Nat) (hi : i < 64) :
    ∃ x, (numRsim l zeros r).getD i fpZero = fpSignOnly x := by
  simp only [numRsim, zeroToZero, zeros_all, if_true, List.getD_eq_getElem?_getD, List.getElem?_map,
    List.getElem?_range hi]
  exact ⟨_, rfl⟩

theorem zeros_kron_cell (b : List F64) (i : Nat) (hi : i < 64) :
    ∃ x, (numKron b zeros).getD i fpZero = fpSignOnly x := by
  simp only [numKron, zeroToZero, zeros_all, if_true, List.getD_eq_getElem?_getD, List.getElem?_map,
    List.getElem?_range hi]
  exact ⟨_, rfl⟩

theorem zeros_getD (i : Nat) : fpReal (zeros.getD i fpZero) = 0 := by
  have h : zeros.getD i fpZero = 0#64 := by
    simp only [zeros, List.getD_eq_getElem?_getD, List.getElem?_replicate]
    split <;> rfl
  rw [h, fpReal_zero]

theorem near_zero {eps S : ℝ} (h : 0 ≤ eps * S) {x y : F64} (hx : x = fpSignOnly y) : near (eps * S) x 0 := by
  rw [hx, near, (signOnly_real y).2]
  exact ⟨(signOnly_real y).1, by simpa using h⟩

/-- P-ACC holds of the zero operand, whatever NUM is: both sides are zero. -/
theorem zeros_acc : AccRsimInverse (1 / 2 ^ 13) zeros ∧ AccRsimForward (1 / 2 ^ 13) zeros ∧
    AccKronForward (1 / 2 ^ 13) zeros := by
  have pos : ∀ S, realOperandBound zeros S → (0 : ℝ) ≤ 1 / 2 ^ 13 * S := fun S h => by
    have := h.2.2
    positivity
  refine ⟨fun S i h hi => ?_, fun S i h hi => ?_, fun S i h hi => ?_⟩
  · obtain ⟨x, hx⟩ := zeros_cell c8IIIValue (transpose 8 c8IIIValue) i hi
    have := near_zero (pos S h) hx
    simpa only [exactSim, exactProduct, zeros_getD, mul_zero, zero_mul, Finset.sum_const_zero] using this
  · obtain ⟨x, hx⟩ := zeros_cell c8IIValue (transpose 8 c8IIValue) i hi
    have := near_zero (pos S h) hx
    simpa only [exactSim, exactProduct, zeros_getD, mul_zero, zero_mul, Finset.sum_const_zero] using this
  · obtain ⟨x, hx⟩ := zeros_kron_cell c8IIValue i hi
    have := near_zero (pos S h) hx
    simpa only [exactKron, zeros_getD, mul_zero, zero_mul, Finset.sum_const_zero] using this

/-- The DC coefficient 0, with P-ACC met at the smallest EPS the statement admits. -/
theorem witness_ReconOfDcCoefficient : zeros = 0#64 :: List.replicate 63 0x0000000000000000#64 ∧
    AccRsimInverse (1 / 2 ^ 13) zeros ∧ (1 / 2 ^ 13 : ℝ) ≤ 1 / 2 ^ 13 ∧ demo.Inv ∧ (-128 : ℤ) ≤ 0 ∧ (0 : ℤ) ≤ 127 ∧
    fpFinite 0#64 = true ∧ fpReal 0#64 = 8 * ((0 : ℤ) : ℝ) ∧ demo.v[(0 : Fin 8)] = some ⟨8, 8, .real zeros⟩ :=
  ⟨rfl, zeros_acc.1, le_refl _, demo_inv, by decide, by decide, by decide +kernel, by rw [fpReal_zero]; norm_num, rfl⟩

theorem exactIII_column (k : ℕ) : exactIII 8 k 0 * exactIII 8 k 0 = 1 / 8 := by
  have h2 : √(2 : ℝ) ^ 2 = 2 := Real.sq_sqrt (by norm_num)
  have h8 : √(8 : ℝ) ^ 2 = 8 := Real.sq_sqrt (by norm_num)
  simp only [exactIII, lambdaII, if_true, Nat.cast_zero, mul_zero, zero_mul, zero_div, Real.cos_zero, mul_one,
    Nat.cast_ofNat]
  field_simp
  linarith

/-- The exact inverse DCT of a lone DC coefficient is an eighth of it in every cell. -/
theorem exactSim_dc (x : F64) (i : ℕ) :
    exactSim 8 (exactIII 8) (x :: List.replicate 63 0#64) (fun k l => exactIII 8 l k) i = fpReal x / 8 := by
  have get : ∀ j, fpReal ((x :: List.replicate 63 0#64).getD (j + 1) fpZero) = 0 := fun j => by
    rw [List.getD_cons_succ, List.getD_eq_getElem?_getD, List.getElem?_replicate]
    split <;> exact fpReal_zero
  rw [exactSim, exactProduct, Finset.sum_eq_single 0, Finset.sum_eq_single 0]
  · have hk : ∀ k l, exactIII 8 k 0 * exactIII 8 l 0 = 1 / 8 := fun k l => by
      rw [← exactIII_column k]; simp [exactIII]
    rw [mul_right_comm, hk, zero_mul, zero_add, List.getD_cons_zero]
    ring
  · intro b _ hb
    obtain ⟨c, rfl⟩ := Nat.exists_eq_succ_of_ne_zero hb
    rw [zero_mul, zero_add, get, mul_zero, zero_mul]
  · exact fun h => absurd (Finset.mem_range.2 (by norm_num)) h
  · intro a _ ha
    refine Finset.sum_eq_zero fun b _ => ?_
    obtain ⟨c, rfl⟩ := Nat.exists_eq_succ_of_ne_zero ha
    rw [show (c + 1) * 8 + b = c * 8 + 7 + b + 1 by omega, get, mul_zero, zero_mul]
  · exact fun h => absurd (Finset.mem_range.2 (by norm_num)) h

/-- The ends of the range, k = 127 and k = -128. NUM is free, so P-ACC itself can be shown only at the zero operand; here
the bound it sets is met by a list of elements, with nothing to spare for EPS. -/
theorem witness_ReconOfDcCoefficient_ends :
    (fpFinite 0x408FC00000000000#64 = true ∧ fpReal 0x408FC00000000000#64 = 8 * ((127 : ℤ) : ℝ)) ∧
    (fpFinite 0xC090000000000000#64 = true ∧ fpReal 0xC090000000000000#64 = 8 * ((-128 : ℤ) : ℝ)) ∧
    (withBlock (0x408FC00000000000#64 :: List.replicate 63 0#64)).Inv ∧
    ∀ i, i < 64 → near 0 ((List.replicate 64 0x405FC00000000000#64).getD i fpZero)
      (exactSim 8 (exactIII 8) (0x408FC00000000000#64 :: List.replicate 63 0#64) (fun k l => exactIII 8 l k) i) := by
  have h1 : fpReal 0x408FC00000000000#64 = 1016 := by
    rw [fpReal, show fpRat 0x408FC00000000000#64 = 1016 by decide +kernel]; norm_num
  have h2 : fpReal 0xC090000000000000#64 = -1024 := by
    rw [fpReal, show fpRat 0xC090000000000000#64 = -1024 by decide +kernel]; norm_num
  have h3 : fpReal 0x405FC00000000000#64 = 127 := by
    rw [fpReal, show fpRat 0x405FC00000000000#64 = 127 by decide +kernel]; norm_num
  refine ⟨⟨by decide +kernel, by rw [h1]; norm_num⟩, ⟨by decide +kernel, by rw [h2]; norm_num⟩, withBlock_inv rfl,
    fun i hi => ?_⟩
  rw [List.getD_eq_getElem?_getD, List.getElem?_replicate, if_pos hi, exactSim_dc, h1]
  exact ⟨by decide +kernel, by rw [Option.getD_some, h3]; norm_num⟩

theorem witness_DctFormsAgree : demo.Inv ∧ demo.v[(0 : Fin 8)] = some ⟨8, 8, .real zeros⟩ ∧
    realOperandBound zeros 1 ∧ AccKronForward (1 / 2 ^ 13) zeros ∧ AccRsimForward (1 / 2 ^ 13) zeros := by
  refine ⟨demo_inv, rfl, ⟨rfl, fun x hx => ?_, le_refl _⟩, zeros_acc.2.2, zeros_acc.2.1⟩
  rw [(List.mem_replicate.1 hx).2, fpReal_zero]
  exact ⟨by decide +kernel, by norm_num⟩

theorem witness_ExactFourierInverse : 0 < 1 ∧ 15 < 16 := by decide

end Sys2Proof.Tests
end

/-! PROOFS. The binary64 patterns by what they unpack to, and the special values of the element operations. -/

namespace Sys2Proof.Machine

/-! Patterns and what they unpack to -/

theorem eq_packMag (x : F64) : x = packMag x.msb (x.toNat % 2 ^ 63) := by
  apply BitVec.eq_of_toNat_eq
  rw [packMag_toNat _ _ (Nat.mod_lt _ (by norm_num)), BitVec.msb_eq_decide]
  have := x.isLt
  by_cases hc : 2 ^ (64 - 1) ≤ x.toNat
  · rw [decide_eq_true hc, Bool.toNat_true]; omega
  · rw [decide_eq_false hc, Bool.toNat_false]; omega

theorem infMag_lt : infMag < 2 ^ 63 := by decide

/-- Every magnitude an operation delivers keeps the sign it is packed with. -/
theorem packMag_msb_of_le (neg : Bool) {mag : Nat} (h : mag ≤ infMag) : (packMag neg mag).msb = neg :=
  packMag_msb neg mag (h.trans_lt infMag_lt)

/-- A magnitude past the infinity's unpacks to a NaN. -/
theorem unpack_packMag_nan (neg : Bool) {mag : Nat} (h : infMag < mag) (h63 : mag < 2 ^ 63) :
    unpack (packMag neg mag) = .nan := by
  unfold infMag at h
  simp only [unpack, packMag_exponent neg mag h63, packMag_fraction neg mag h63]
  rw [if_pos (by omega), if_neg (by omega)]

/-- The only pattern of an infinity. -/
theorem eq_of_unpack_inf {x : F64} {p : Bool} (h : unpack x = .inf p) : x = packMag p infMag := by
  have h63 : x.toNat % 2 ^ 63 < 2 ^ 63 := Nat.mod_lt _ (by norm_num)
  have hx := eq_packMag x
  rw [hx] at h
  rcases lt_trichotomy (x.toNat % 2 ^ 63) infMag with hlt | heq | hgt
  · rw [unpack_packMag _ hlt] at h; cases h
  · rw [heq, unpack_packMag_inf, Fp.inf.injEq] at h
    rwa [heq, h] at hx
  · rw [unpack_packMag_nan _ hgt h63] at h; cases h

/-- The sign of a value; a NaN has none that counts. -/
def Fp.neg : Fp → Bool
  | .nan => false
  | .inf p => p
  | .fin p _ => p

theorem unpack_neg {x : F64} (h : unpack x ≠ .nan) : (unpack x).neg = x.msb := by
  cases hx : unpack x with
  | nan => exact absurd hx h
  | inf p => rw [eq_of_unpack_inf hx, packMag_msb_of_le _ le_rfl]; rfl
  | fin p m =>
    obtain ⟨mag, hmag, rfl, -⟩ := finite_packMag hx
    rw [packMag_msb_of_le _ hmag.le]; rfl

theorem msb_of_fin {x : F64} {p : Bool} {m : Nat} (h : unpack x = .fin p m) : x.msb = p := by
  rw [← unpack_neg (by rw [h]; nofun), h, Fp.neg]

theorem fpFinite_iff {x : F64} : fpFinite x = true ↔ ∃ p m, unpack x = .fin p m := by
  unfold fpFinite
  cases unpack x <;> simp

theorem fpIsNaN_iff {x : F64} : fpIsNaN x = true ↔ unpack x = .nan := decide_eq_true_iff

theorem packMag_zero (p : Bool) : packMag p 0 = if p then 0x8000000000000000#64 else 0x0000000000000000#64 := by
  cases p <;> decide

theorem unpack_packMag_zero (p : Bool) : unpack (packMag p 0) = .fin p 0 := by
  cases p <;> decide

theorem unitsOf_eq_zero {mag : Nat} : unitsOf mag = 0 ↔ mag = 0 := by
  unfold unitsOf
  split
  · exact Iff.rfl
  · refine iff_of_false (by positivity) (by omega)

theorem fpIsZero_packMag (p : Bool) {mag : Nat} (h : mag < 2 ^ 63) : fpIsZero (packMag p mag) = decide (mag = 0) := by
  have hand : (packMag p mag &&& 0x7FFFFFFFFFFFFFFF#64).toNat = mag := by
    rw [BitVec.toNat_and, show (0x7FFFFFFFFFFFFFFF#64).toNat = 2 ^ 63 - 1 by decide, Nat.and_two_pow_sub_one_eq_mod,
      packMag_toNat p mag h, Nat.mul_comm, Nat.mul_add_mod, Nat.mod_eq_of_lt h]
  simp [fpIsZero, ← BitVec.toNat_inj, hand]

/-- The zeros are the finite patterns of no units. -/
theorem fpIsZero_iff {x : F64} : fpIsZero x = true ↔ ∃ p, unpack x = .fin p 0 := by
  have hmod : x.toNat % 2 ^ 63 < 2 ^ 63 := Nat.mod_lt _ (by norm_num)
  constructor
  · intro h
    rw [eq_packMag x, fpIsZero_packMag _ hmod, decide_eq_true_eq] at h
    exact ⟨x.msb, by rw [eq_packMag x, h, unpack_packMag_zero, packMag_msb_of_le _ (Nat.zero_le _)]⟩
  · rintro ⟨p, h⟩
    obtain ⟨mag, hmag, rfl, hu⟩ := finite_packMag h
    rw [fpIsZero_packMag _ (hmag.trans infMag_lt), decide_eq_true_eq, ← unitsOf_eq_zero, hu]

theorem fpIsZero_of_fin {x : F64} {p : Bool} {m : Nat} (h : unpack x = .fin p m) : fpIsZero x = decide (m = 0) := by
  rw [Bool.eq_iff_iff, fpIsZero_iff, h]
  simp [eq_comm]

theorem roundMag_le (n d : Nat) : roundMag n d ≤ infMag := Nat.min_le_right _ _

theorem roundMag_zero (d : Nat) : roundMag 0 d = 0 := by
  simp [roundMag, roundHalfEven]

/-- What an operation delivers in place of a number is a NaN (00_scope.md R18). -/
theorem unpack_freshNaN (op : FpOp) (cell : Nat) (a b : F64) : unpack (freshNaN op cell a b) = .nan := by
  have key : ∀ (neg : Bool) (f : BitVec 52), f ≠ 0#52 → unpack (BitVec.ofBool neg ++ 0x7FF#11 ++ f) = .nan := by
    intro neg f hf
    have hpos : f.toNat ≠ 0 := by simpa [← BitVec.toNat_inj] using hf
    have hmag : infMag + f.toNat < 2 ^ 63 := by have := f.isLt; unfold infMag; omega
    have hpat : BitVec.ofBool neg ++ 0x7FF#11 ++ f = packMag neg (infMag + f.toNat) := by
      apply BitVec.eq_of_toNat_eq
      rw [packMag_toNat _ _ hmag, BitVec.toNat_append, ← Nat.shiftLeft_add_eq_or_of_lt f.isLt, Nat.shiftLeft_eq]
      cases neg <;> simp [infMag]
      omega
    rw [hpat, unpack_packMag_nan neg (by omega) hmag]
  refine key _ _ ?_
  split
  · decide
  · assumption

/-! The operations on unpacked operands -/

section
variable {a b : F64} {p q : Bool} {m n : Nat} (cell : Nat)

theorem fpAdd_fin (ha : unpack a = .fin p m) (hb : unpack b = .fin q n) : fpAdd cell a b = addFinite p m q n := by
  rw [fpAdd, ha, hb]; rfl

theorem fpSub_fin (ha : unpack a = .fin p m) (hb : unpack b = .fin q n) :
    fpSub cell a b = addFinite p m (!q) n := by
  rw [fpSub, ha, hb]; rfl

theorem fpMul_fin (ha : unpack a = .fin p m) (hb : unpack b = .fin q n) :
    fpMul cell a b = packMag (p != q) (roundMag (m * n) fpOne) := by
  rw [fpMul, ha, hb]; rfl

theorem fpDiv_fin (ha : unpack a = .fin p m) (hb : unpack b = .fin q n) (hn : n ≠ 0) :
    fpDiv cell a b = packMag (p != q) (roundMag (m * fpOne) n) := by
  rw [fpDiv, ha, hb]; exact if_neg hn

/-- A zero divided by a finite nonzero element is the zero of the signs (00_scope.md R19). -/
theorem fpDiv_zero (ha : unpack a = .fin p 0) (hb : unpack b = .fin q n) (hn : n ≠ 0) :
    fpDiv cell a b = packMag (p != q) 0 := by
  rw [fpDiv_fin cell ha hb hn, Nat.zero_mul, roundMag_zero]

end

/-! NaNs -/

theorem addCore_nan_left (nan : F64) (y : Fp) : addCore nan .nan y = nan := by cases y <;> rfl
theorem addCore_nan_right (nan : F64) (x : Fp) : addCore nan x .nan = nan := by cases x <;> rfl
theorem mulCore_nan_left (nan : F64) (y : Fp) : mulCore nan .nan y = nan := by cases y <;> rfl
theorem mulCore_nan_right (nan : F64) (x : Fp) : mulCore nan x .nan = nan := by cases x <;> rfl
theorem divCore_nan_left (nan : F64) (y : Fp) : divCore nan .nan y = nan := by cases y <;> rfl
theorem divCore_nan_right (nan : F64) (x : Fp) : divCore nan x .nan = nan := by cases x <;> rfl

/-- A NaN operand gives a NaN (00_scope.md R18). -/
theorem nanOperand_gives_nan (cell : Nat) {a b : F64} (h : fpIsNaN a = true ∨ fpIsNaN b = true) :
    fpIsNaN (fpAdd cell a b) = true ∧ fpIsNaN (fpSub cell a b) = true ∧
      fpIsNaN (fpMul cell a b) = true ∧ fpIsNaN (fpDiv cell a b) = true := by
  simp only [fpIsNaN_iff, fpAdd, fpSub, fpMul, fpDiv] at h ⊢
  rcases h with h | h <;> rw [h]
  · simp only [addCore_nan_left, mulCore_nan_left, divCore_nan_left, unpack_freshNaN, and_self]
  · simp only [Fp.negate, addCore_nan_right, mulCore_nan_right, divCore_nan_right, unpack_freshNaN, and_self]

/-! Infinities -/

section
variable {a b : F64} {p q : Bool} {n : Nat} (cell : Nat)

/-- Two infinities (00_scope.md R16, R18). -/
theorem inf_inf (ha : unpack a = .inf p) (hb : unpack b = .inf q) :
    (p ≠ q → fpIsNaN (fpAdd cell a b) = true ∧ unpack (fpSub cell a b) = .inf p) ∧
    (p = q → fpIsNaN (fpSub cell a b) = true ∧ unpack (fpAdd cell a b) = .inf p) ∧
    unpack (fpMul cell a b) = .inf (p != q) ∧ fpIsNaN (fpDiv cell a b) = true := by
  simp only [fpIsNaN_iff, fpAdd, fpSub, fpMul, fpDiv, ha, hb, Fp.negate, addCore, mulCore, divCore, unpack_freshNaN,
    unpack_packMag_inf, and_true]
  cases p <;> cases q <;> simp [unpack_freshNaN, unpack_packMag_inf]

/-- An infinity and a finite element, in either order, under addition and subtraction. -/
theorem inf_fin_add_sub (ha : unpack a = .inf p) (hb : unpack b = .fin q n) :
    unpack (fpAdd cell a b) = .inf p ∧ unpack (fpAdd cell b a) = .inf p ∧
      unpack (fpSub cell a b) = .inf p ∧ unpack (fpSub cell b a) = .inf (!p) := by
  simp only [fpAdd, fpSub, ha, hb, Fp.negate, addCore, unpack_packMag_inf, and_self]

/-- An infinity times a finite element: the infinity of the signs, and a NaN when the element is a zero. -/
theorem inf_fin_mul (ha : unpack a = .inf p) (hb : unpack b = .fin q n) :
    (fpIsZero b = false → unpack (fpMul cell a b) = .inf (p != q) ∧ unpack (fpMul cell b a) = .inf (q != p)) ∧
      (fpIsZero b = true → fpIsNaN (fpMul cell a b) = true ∧ fpIsNaN (fpMul cell b a) = true) := by
  simp only [fpIsNaN_iff, fpMul, ha, hb, mulCore, fpIsZero_of_fin hb, decide_eq_true_eq, decide_eq_false_iff_not]
  refine ⟨fun hn => ?_, fun hn => ?_⟩
  · simp only [if_neg hn, unpack_packMag_inf, and_self]
  · simp only [if_pos hn, unpack_freshNaN, and_self]

/-- An infinity and a finite element, in either order, under division. -/
theorem inf_fin_div (ha : unpack a = .inf p) (hb : unpack b = .fin q n) :
    unpack (fpDiv cell a b) = .inf (p != q) ∧ fpDiv cell b a = packMag (q != p) 0 := by
  simp only [fpDiv, ha, hb, divCore, unpack_packMag_inf, and_self]

end

/-! The sign of products and quotients -/

/-- A product is the NaN, or both operands are numbers and it has the sign of their signs. -/
theorem mulCore_cases (nan : F64) (x y : Fp) : mulCore nan x y = nan ∨
    x ≠ .nan ∧ y ≠ .nan ∧ (mulCore nan x y).msb = (x.neg != y.neg) := by
  cases x with
  | nan => exact .inl (mulCore_nan_left nan y)
  | inf p =>
    cases y with
    | nan => exact .inl rfl
    | inf q => exact .inr ⟨nofun, nofun, packMag_msb_of_le _ le_rfl⟩
    | fin q n =>
      by_cases hn : n = 0
      · exact .inl (if_pos hn)
      · exact .inr ⟨nofun, nofun, by rw [mulCore, if_neg hn, packMag_msb_of_le _ le_rfl]; rfl⟩
  | fin p m =>
    cases y with
    | nan => exact .inl rfl
    | inf q =>
      by_cases hm : m = 0
      · exact .inl (if_pos hm)
      · exact .inr ⟨nofun, nofun, by rw [mulCore, if_neg hm, packMag_msb_of_le _ le_rfl]; rfl⟩
    | fin q n => exact .inr ⟨nofun, nofun, packMag_msb_of_le _ (roundMag_le _ _)⟩

/-- A quotient is the NaN, or both operands are numbers and it has the sign of their signs. -/
theorem divCore_cases (nan : F64) (x y : Fp) : divCore nan x y = nan ∨
    x ≠ .nan ∧ y ≠ .nan ∧ (divCore nan x y).msb = (x.neg != y.neg) := by
  cases x with
  | nan => exact .inl (divCore_nan_left nan y)
  | inf p =>
    cases y with
    | nan => exact .inl rfl
    | inf q => exact .inl rfl
    | fin q n => exact .inr ⟨nofun, nofun, packMag_msb_of_le _ le_rfl⟩
  | fin p m =>
    cases y with
    | nan => exact .inl rfl
    | inf q => exact .inr ⟨nofun, nofun, packMag_msb_of_le _ (Nat.zero_le _)⟩
    | fin q n =>
      by_cases hn : n = 0
      · by_cases hm : m = 0
        · exact .inl (by rw [divCore, if_pos hn, if_pos hm])
        · exact .inr ⟨nofun, nofun, by rw [divCore, if_pos hn, if_neg hm, packMag_msb_of_le _ le_rfl]; rfl⟩
      · exact .inr ⟨nofun, nofun, by rw [divCore, if_neg hn, packMag_msb_of_le _ (roundMag_le _ _)]; rfl⟩

theorem fpMul_msb {cell : Nat} {a b : F64} (h : fpIsNaN (fpMul cell a b) = false) :
    (fpMul cell a b).msb = (a.msb != b.msb) := by
  rcases mulCore_cases (freshNaN .mul cell a b) (unpack a) (unpack b) with hnan | ⟨ha, hb, hs⟩
  · rw [fpMul, hnan, fpIsNaN_iff.2 (unpack_freshNaN ..)] at h; cases h
  · rw [fpMul, hs, unpack_neg ha, unpack_neg hb]

theorem fpDiv_msb {cell : Nat} {a b : F64} (h : fpIsNaN (fpDiv cell a b) = false) :
    (fpDiv cell a b).msb = (a.msb != b.msb) := by
  rcases divCore_cases (freshNaN .div cell a b) (unpack a) (unpack b) with hnan | ⟨ha, hb, hs⟩
  · rw [fpDiv, hnan, fpIsNaN_iff.2 (unpack_freshNaN ..)] at h; cases h
  · rw [fpDiv, hs, unpack_neg ha, unpack_neg hb]

/-! Exact values -/

theorem fpOne_pos : 0 < fpOne := by unfold fpOne; positivity

theorem fpOne_cast_pos : (0 : ℝ) < fpOne := Nat.cast_pos.2 fpOne_pos

theorem fpReal_fin {x : F64} {p : Bool} {m : Nat} (h : unpack x = .fin p m) : fpReal x = (signed p m : ℝ) / fpOne := by
  rw [fpReal, fpRat, h]; push_cast; rfl

/-- An exact zero sum is -0.0 only of two operands that enter it negative (00_scope.md R19). -/
theorem addFinite_of_sum_zero {p q : Bool} {m n : Nat} (h : (signed p m : ℝ) / fpOne + (signed q n : ℝ) / fpOne = 0) :
    addFinite p m q n = packMag (p && q) 0 := by
  have hsum : signed p m + signed q n = 0 := by
    rw [← add_div, div_eq_zero_iff, or_iff_left fpOne_cast_pos.ne'] at h
    exact_mod_cast h
  simp only [addFinite, if_pos hsum]

theorem signed_not (q : Bool) (n : Nat) : signed (!q) n = -signed q n := by
  cases q <;> simp [signed]

/-- The results on finite operands that are decided without rounding. -/
theorem finite_special (cell : Nat) {a b : F64} {p q : Bool} {m n : Nat} (ha : unpack a = .fin p m)
    (hb : unpack b = .fin q n) :
    (m ≠ 0 → n = 0 → unpack (fpDiv cell a b) = .inf (p != q)) ∧
    (fpReal a + fpReal b = 0 → fpAdd cell a b = packMag (p && q) 0) ∧
    (fpReal a - fpReal b = 0 → fpSub cell a b = packMag (p && !q) 0) ∧
    (m = 0 ∨ n = 0 → fpMul cell a b = packMag (p != q) 0) ∧
    (m = 0 → n ≠ 0 → fpDiv cell a b = packMag (p != q) 0) := by
  refine ⟨?_, ?_, ?_, ?_, ?_⟩
  · intro hm hn
    rw [fpDiv, ha, hb, divCore, if_pos hn, if_neg hm, unpack_packMag_inf]
  · intro h
    rw [fpReal_fin ha, fpReal_fin hb] at h
    rw [fpAdd_fin cell ha hb, addFinite_of_sum_zero h]
  · intro h
    rw [fpReal_fin ha, fpReal_fin hb, sub_eq_add_neg, ← neg_div] at h
    rw [fpSub_fin cell ha hb, addFinite_of_sum_zero (by rw [signed_not]; push_cast; exact h)]
  · intro h
    rw [fpMul_fin cell ha hb, Nat.mul_eq_zero.2 h, roundMag_zero]
  · intro hm hn
    subst hm
    exact fpDiv_zero cell ha hb hn

end Sys2Proof.Machine

namespace Sys2Proof

open Machine

/-- Settles O56: one lemma per kind of operands: NaN, two infinities, one infinity, two zeros, finite, and the signs. -/
theorem specialValues : Obligations.SpecialValues := by
  intro cell a b
  refine ⟨nanOperand_gives_nan cell, fun p q => inf_inf cell, ?_, ?_, ?_, fpMul_msb, fpDiv_msb⟩
  · intro p ha hfin
    obtain ⟨q, n, hb⟩ := fpFinite_iff.1 hfin
    rw [msb_of_fin hb, ← packMag_zero]
    obtain ⟨hadd, hadd', hsub, hsub'⟩ := inf_fin_add_sub cell ha hb
    obtain ⟨hmul, hmul0⟩ := inf_fin_mul cell ha hb
    obtain ⟨hdiv, hdiv'⟩ := inf_fin_div cell ha hb
    exact ⟨hadd, hadd', hsub, hsub', hmul, hmul0, hdiv, hdiv'⟩
  · intro ha hb
    obtain ⟨p, ha⟩ := fpIsZero_iff.1 ha
    obtain ⟨q, hb⟩ := fpIsZero_iff.1 hb
    rw [fpIsNaN_iff, fpDiv, ha, hb]
    exact unpack_freshNaN ..
  · intro hafin hbfin
    obtain ⟨p, m, ha⟩ := fpFinite_iff.1 hafin
    obtain ⟨q, n, hb⟩ := fpFinite_iff.1 hbfin
    simp only [msb_of_fin ha, msb_of_fin hb, ← packMag_zero, fpIsZero_of_fin ha, fpIsZero_of_fin hb,
      decide_eq_true_eq, decide_eq_false_iff_not]
    exact finite_special cell ha hb

end Sys2Proof

/-! PROOFS. Correct rounding (00_scope.md R16, R17, R21): the rounded magnitude of n / d units is nearest, and it is the
infinity exactly from 2^1024 - 2^970 on. -/

namespace Sys2Proof.Machine

/-- y is x correctly rounded: fl(x) below 2^1024 - 2^970 in magnitude and the infinity of x's sign from there on. -/
def Rounded (x : ℝ) (y : F64) : Prop :=
  (|x| < 2 ^ 1024 - 2 ^ 970 → isFl x y) ∧
  (2 ^ 1024 - 2 ^ 970 ≤ x → y = 0x7FF0000000000000#64) ∧ (x ≤ -(2 ^ 1024 - 2 ^ 970) → y = 0xFFF0000000000000#64)

/-! The overflow point -/

/-- An even number is reached from half below it on. -/
theorem le_roundHalfEven_iff {n d k : Nat} (hd : 0 < d) (hk : k % 2 = 0) :
    k ≤ roundHalfEven n d ↔ 2 * (k * d) ≤ 2 * n + d := by
  have hn := Nat.div_add_mod n d
  have hr := Nat.mod_lt n hd
  have hb := roundHalfEven_bounds n d
  rcases lt_trichotomy k (n / d + 1) with hlt | heq | hgt
  · have : k * d ≤ n / d * d := Nat.mul_le_mul_right d (by omega)
    exact iff_of_true (by omega) (by rw [Nat.mul_comm] at hn; omega)
  · have hmul : k * d = d * (n / d) + d := by rw [heq]; ring
    rw [hmul]
    simp only [roundHalfEven]
    split_ifs <;> omega
  · have : (n / d + 2) * d ≤ k * d := Nat.mul_le_mul_right d (by omega)
    exact iff_of_false (by omega) (by nlinarith)

/-- Rounding overflows exactly from half a last place below 2^2098 units on. -/
theorem roundMag_eq_infMag_iff (n : Nat) {d : Nat} (hd : 0 < d) :
    roundMag n d = infMag ↔ 2 ^ 54 * (2 ^ 2044 * d) ≤ n + 2 ^ 2044 * d := by
  obtain ⟨s, hs, hk, hks, hr⟩ := roundMag_shift n hd
  have hD : 0 < d * 2 ^ s := by positivity
  have hval : roundMag n d = infMag ↔ 2047 * 2 ^ 52 ≤ s * 2 ^ 52 + roundHalfEven n (d * 2 ^ s) := by
    rw [hr, infMag]; exact min_eq_right_iff
  rw [hval]
  rcases lt_trichotomy s 2045 with hlt | rfl | hgt
  · have hup : ¬2 ^ 53 + 2 ≤ roundHalfEven n (d * 2 ^ s) := by omega
    rw [le_roundHalfEven_iff hD (by norm_num)] at hup
    have hpow : 2 ^ s ≤ 2 ^ 2044 := pow_le_pow_right₀ one_le_two (by omega)
    generalize 2 ^ 2044 = t at hpow ⊢
    have hle : d * 2 ^ s ≤ t * d := by rw [Nat.mul_comm d]; exact Nat.mul_le_mul_right d hpow
    exact iff_of_false (by omega) (by omega)
  · have htop : 2047 * 2 ^ 52 ≤ 2045 * 2 ^ 52 + roundHalfEven n (d * 2 ^ 2045) ↔
        2 ^ 53 ≤ roundHalfEven n (d * 2 ^ 2045) := by omega
    have hdiv : d * 2 ^ 2045 = 2 * (2 ^ 2044 * d) := by rw [pow_succ 2 2044, ← mul_assoc, mul_comm, mul_comm d]
    rw [htop, le_roundHalfEven_iff hD (by norm_num), hdiv]
    generalize 2 ^ 2044 * d = t
    omega
  · have hn : 2 ^ (52 + s) * d ≤ n := hs.resolve_left (by omega)
    have hpow : 2 ^ 54 * 2 ^ 2044 ≤ 2 ^ (52 + s) := by
      rw [← pow_add]; exact pow_le_pow_right₀ one_le_two (by omega)
    have hle := Nat.mul_le_mul_right d hpow
    rw [Nat.mul_assoc] at hle
    exact iff_of_true (by omega) (by omega)

theorem fpOne_cast : (fpOne : ℝ) = 2 ^ 1074 := by rw [fpOne, Nat.cast_pow, Nat.cast_ofNat]

/-- The overflow point in real numbers. -/
theorem overflow_le_iff (n : Nat) {d : Nat} (hd : 0 < d) :
    (2 ^ 1024 - 2 ^ 970 : ℝ) ≤ n / d / fpOne ↔ roundMag n d = infMag := by
  have h1 : (2 : ℝ) ^ 1024 = 2 ^ 54 * 2 ^ 970 := by rw [← pow_add]
  have h2 : (2 : ℝ) ^ 970 * fpOne = 2 ^ 2044 := by rw [fpOne_cast, ← pow_add]
  have hpoint : (2 ^ 1024 - 2 ^ 970 : ℝ) * fpOne * d = 2 ^ 54 * (2 ^ 2044 * d) - 2 ^ 2044 * d := by
    rw [h1, ← h2]; generalize (2 : ℝ) ^ 970 = c; ring
  rw [roundMag_eq_infMag_iff n hd, le_div_iff₀ fpOne_cast_pos, le_div_iff₀ (Nat.cast_pos.2 hd), hpoint,
    sub_le_iff_le_add, ← Nat.cast_le (α := ℝ)]
  simp only [Nat.cast_add, Nat.cast_mul, Nat.cast_pow, Nat.cast_ofNat]

/-! Nearness -/

theorem abs_units_sub (u n : Nat) {d : Nat} (hd : 0 < d) :
    |(u : ℝ) / fpOne - n / d / fpOne| = |(u : ℝ) * d - n| / (d * fpOne) := by
  have hd' : (0 : ℝ) < d := Nat.cast_pos.2 hd
  have hone := fpOne_cast_pos
  generalize (fpOne : ℝ) = one at hone ⊢
  rw [show (u : ℝ) / one - n / d / one = (u * d - n) / (d * one) by field_simp, abs_div,
    abs_of_pos (mul_pos hd' hone)]

/-- `roundMag_nearest` in real numbers. -/
theorem roundMag_nearest_real (n : Nat) {d : Nat} (hd : 0 < d) (hfin : roundMag n d < infMag) (mag : Nat) :
    |(unitsOf (roundMag n d) : ℝ) / fpOne - n / d / fpOne| < |(unitsOf mag : ℝ) / fpOne - n / d / fpOne| ∨
      unitsOf mag = unitsOf (roundMag n d) ∨
      (|(unitsOf (roundMag n d) : ℝ) / fpOne - n / d / fpOne| = |(unitsOf mag : ℝ) / fpOne - n / d / fpOne| ∧
        roundMag n d % 2 = 0) := by
  have hpos : (0 : ℝ) < d * fpOne := mul_pos (Nat.cast_pos.2 hd) fpOne_cast_pos
  rw [abs_units_sub _ _ hd, abs_units_sub _ _ hd, div_lt_div_iff_of_pos_right hpos, div_left_inj' hpos.ne']
  exact_mod_cast roundMag_nearest n hd hfin mag

/-- The sign as a factor. -/
def signFactor (p : Bool) : ℝ := if p then -1 else 1

theorem signFactor_not (p : Bool) : signFactor (!p) = -signFactor p := by cases p <;> simp [signFactor]

theorem abs_signFactor (p : Bool) : |signFactor p| = 1 := by cases p <;> simp [signFactor]

theorem signed_cast (p : Bool) (m : Nat) : (signed p m : ℝ) = signFactor p * m := by
  cases p <;> simp [signed, signFactor]

/-- Of two magnitudes the one nearer to t stays nearer when signs are put on, as the sign of t favours its own side. -/
theorem nearer_signed {u v t : ℝ} {even : Prop} (hv : 0 ≤ v) (ht : 0 ≤ t)
    (hnear : |u - t| < |v - t| ∨ v = u ∨ |u - t| = |v - t| ∧ even) (hzero : u ≠ 0 → t ≠ 0) (p q : Bool)
    (hne : signFactor q * v ≠ signFactor p * u) :
    |signFactor p * u - signFactor p * t| < |signFactor q * v - signFactor p * t| ∨
      |signFactor p * u - signFactor p * t| = |signFactor q * v - signFactor p * t| ∧ even := by
  have hu : |signFactor p * u - signFactor p * t| = |u - t| := by rw [← mul_sub, abs_mul, abs_signFactor, one_mul]
  rw [hu]
  by_cases hpq : q = p
  · subst hpq
    rw [← mul_sub, abs_mul, abs_signFactor, one_mul]
    have hvu : v ≠ u := fun h => hne (by rw [h])
    exact hnear.imp_right (·.resolve_left hvu)
  · obtain rfl := Bool.eq_not.2 hpq
    have hother : |signFactor (!p) * v - signFactor p * t| = v + t := by
      rw [signFactor_not, neg_mul, ← neg_add', ← mul_add, abs_neg, abs_mul, abs_signFactor, one_mul,
        abs_of_nonneg (add_nonneg hv ht)]
    have hle : |v - t| ≤ v + t := abs_sub_le_iff.2 ⟨by linarith, by linarith⟩
    rw [hother]
    rcases hnear with hlt | rfl | ⟨heq, he⟩
    · exact .inl (hlt.trans_le hle)
    · left
      have hv0 : v ≠ 0 := fun h => hne (by rw [h, mul_zero, mul_zero])
      have hvpos := hv.lt_of_ne' hv0
      have htpos := ht.lt_of_ne' (hzero hv0)
      exact abs_sub_lt_iff.2 ⟨by linarith, by linarith⟩
    · exact (heq.trans_le hle).lt_or_eq.imp_right (⟨·, he⟩)

theorem packMag_even {p : Bool} {mag : Nat} (h : mag < 2 ^ 63) (he : mag % 2 = 0) :
    (packMag p mag).getLsbD 0 = false := by
  rw [BitVec.getLsbD, packMag_toNat p mag h, Nat.testBit_zero]
  simp; omega

theorem units_nonneg (u : Nat) : (0 : ℝ) ≤ u / fpOne := div_nonneg u.cast_nonneg fpOne_cast_pos.le

/-- A magnitude rounded below the infinity is fl of the exact value, whatever the sign. -/
theorem isFl_packMag (p : Bool) (n : Nat) {d : Nat} (hd : 0 < d) (hfin : roundMag n d < infMag) :
    isFl (signFactor p * (n / d / fpOne)) (packMag p (roundMag n d)) := by
  have hy := unpack_packMag p hfin
  refine ⟨fpFinite_iff.2 ⟨_, _, hy⟩, fun z hz hne => ?_⟩
  obtain ⟨q, m, hm⟩ := fpFinite_iff.1 hz
  obtain ⟨mag, -, -, rfl⟩ := finite_packMag hm
  rw [fpReal_fin hy, fpReal_fin hm, signed_cast, signed_cast, mul_div_assoc, mul_div_assoc] at hne ⊢
  have ht : (0 : ℝ) ≤ n / d / fpOne := div_nonneg (by positivity) fpOne_cast_pos.le
  refine nearer_signed (units_nonneg _) ht ?_ ?_ p q hne
  · rcases roundMag_nearest_real n hd hfin mag with hlt | heq | ⟨heq, he⟩
    · exact .inl hlt
    · exact .inr (.inl (by rw [heq]))
    · exact .inr (.inr ⟨heq, packMag_even (hfin.trans infMag_lt) he⟩)
  · rintro hu ht0
    have hn : n = 0 := by
      by_contra hn
      have hn : (0 : ℝ) < n := Nat.cast_pos.2 (Nat.pos_of_ne_zero hn)
      exact (div_pos (div_pos hn (Nat.cast_pos.2 hd)) fpOne_cast_pos).ne' ht0
    rw [hn, roundMag_zero, unitsOf_eq_zero.2 rfl, Nat.cast_zero, zero_div] at hu
    exact hu rfl

/-- Packing the rounded magnitude of n / d units rounds the signed value correctly. -/
theorem rounded_packMag (p : Bool) (n : Nat) {d : Nat} (hd : 0 < d) :
    Rounded (signFactor p * (n / d / fpOne)) (packMag p (roundMag n d)) := by
  have hpos : (0 : ℝ) < 2 ^ 1024 - 2 ^ 970 := sub_pos.2 (pow_lt_pow_right₀ one_lt_two (by norm_num))
  have ht : (0 : ℝ) ≤ n / d / fpOne := div_nonneg (by positivity) fpOne_cast_pos.le
  have hover := overflow_le_iff n hd
  have hfl := isFl_packMag p n hd
  generalize (n / d / fpOne : ℝ) = t at *
  unfold Rounded
  generalize (2 ^ 1024 - 2 ^ 970 : ℝ) = top at *
  refine ⟨fun hlt => hfl ?_, fun hle => ?_, fun hle => ?_⟩
  · rw [abs_mul, abs_signFactor, one_mul, abs_of_nonneg ht] at hlt
    exact (roundMag_le n d).lt_of_ne fun h => hlt.not_ge (hover.2 h)
  · cases p <;> simp only [signFactor, if_true, Bool.false_eq_true, if_false, neg_mul, one_mul] at hle
    · rw [hover.1 hle]; decide
    · linarith
  · cases p <;> simp only [signFactor, if_true, Bool.false_eq_true, if_false, neg_mul, one_mul] at hle
    · linarith
    · rw [hover.1 (by linarith)]; decide

/-! The four operations -/

theorem signFactor_bne (p q : Bool) : signFactor (p != q) = signFactor p * signFactor q := by
  cases p <;> cases q <;> simp [signFactor]

theorem signFactor_inv (p : Bool) : (signFactor p)⁻¹ = signFactor p := by cases p <;> simp [signFactor]

theorem signed_natAbs (z : ℤ) : (z : ℝ) = signFactor (decide (z < 0)) * z.natAbs := by
  by_cases h : z < 0
  · rw [decide_eq_true h, Nat.cast_natAbs, abs_of_neg h]; simp [signFactor]
  · rw [decide_eq_false h, Nat.cast_natAbs, abs_of_nonneg (not_lt.1 h)]; simp [signFactor]

theorem rounded_addFinite (p q : Bool) (m n : Nat) :
    Rounded ((signed p m : ℝ) / fpOne + (signed q n : ℝ) / fpOne) (addFinite p m q n) := by
  have hsum : (signed p m : ℝ) / fpOne + (signed q n : ℝ) / fpOne = ((signed p m + signed q n : ℤ) : ℝ) / fpOne := by
    push_cast; ring
  rw [hsum]
  simp only [addFinite]
  generalize signed p m + signed q n = z
  split
  · rename_i hz
    have h := rounded_packMag (p && q) 0 one_pos
    rw [roundMag_zero, Nat.cast_zero, zero_div, zero_div, mul_zero] at h
    rwa [hz, Int.cast_zero, zero_div]
  · have h := rounded_packMag (decide (z < 0)) z.natAbs one_pos
    rwa [Nat.cast_one, div_one, ← mul_div_assoc, ← signed_natAbs] at h

section
variable {a b : F64} {p q : Bool} {m n : Nat} (cell : Nat) (ha : unpack a = .fin p m) (hb : unpack b = .fin q n)
include ha hb

theorem rounded_fpAdd : Rounded (fpReal a + fpReal b) (fpAdd cell a b) := by
  rw [fpReal_fin ha, fpReal_fin hb, fpAdd_fin cell ha hb]
  exact rounded_addFinite p q m n

theorem rounded_fpSub : Rounded (fpReal a - fpReal b) (fpSub cell a b) := by
  have h := rounded_addFinite p (!q) m n
  rw [signed_not, Int.cast_neg, neg_div, ← sub_eq_add_neg] at h
  rwa [fpReal_fin ha, fpReal_fin hb, fpSub_fin cell ha hb]

theorem rounded_fpMul : Rounded (fpReal a * fpReal b) (fpMul cell a b) := by
  have hval : fpReal a * fpReal b = signFactor (p != q) * ((m * n : ℕ) / fpOne / fpOne) := by
    rw [fpReal_fin ha, fpReal_fin hb, signed_cast, signed_cast, signFactor_bne, Nat.cast_mul]; ring
  rw [hval, fpMul_fin cell ha hb]
  exact rounded_packMag _ _ fpOne_pos

theorem rounded_fpDiv (hne : fpReal b ≠ 0) : Rounded (fpReal a / fpReal b) (fpDiv cell a b) := by
  have hn : n ≠ 0 := by
    rintro rfl
    exact hne (by rw [fpReal_fin hb, signed_cast, Nat.cast_zero, mul_zero, zero_div])
  have hval : fpReal a / fpReal b = signFactor (p != q) * ((m * fpOne : ℕ) / n / fpOne) := by
    have hone := fpOne_cast_pos.ne'
    rw [fpReal_fin ha, fpReal_fin hb, div_div_div_cancel_right₀ hone, signed_cast, signed_cast, mul_div_mul_comm,
      div_eq_mul_inv (signFactor p), signFactor_inv, signFactor_bne, Nat.cast_mul, div_right_comm,
      mul_div_cancel_right₀ _ hone]
  rw [hval, fpDiv_fin cell ha hb hn]
  exact rounded_packMag _ _ (Nat.pos_of_ne_zero hn)

end

end Sys2Proof.Machine

namespace Sys2Proof

open Machine

/-- Settles O55: each operation packs one rounded magnitude, and packing rounds correctly. -/
theorem arithmeticIsCorrectlyRounded : Obligations.ArithmeticIsCorrectlyRounded := by
  intro cell a b hafin hbfin
  obtain ⟨p, m, ha⟩ := fpFinite_iff.1 hafin
  obtain ⟨q, n, hb⟩ := fpFinite_iff.1 hbfin
  exact ⟨rounded_fpAdd cell ha hb, rounded_fpSub cell ha hb, rounded_fpMul cell ha hb, rounded_fpDiv cell ha hb⟩

end Sys2Proof

/-! PROOFS. `rnd` and `clip` (00_scope.md R24, R25). -/

namespace Sys2Proof.Machine

/-! Rounding to an integer -/

theorem roundHalfAway_mul (q : Nat) {d : Nat} (hd : 0 < d) : roundHalfAway (q * d) d = q := by
  rw [roundHalfAway, Nat.mul_mod_left, if_neg (by omega), Nat.mul_div_cancel q hd]

/-- A number that d divides is not moved, under either tie rule. -/
theorem roundTies_mul (ties : RoundTies) (q : Nat) {d : Nat} (hd : 0 < d) : roundTies ties (q * d) d = q := by
  cases ties with
  | even => exact roundHalfEven_mul q hd
  | away => exact roundHalfAway_mul q hd

/-- The rounded integer is the floor, from a remainder of at most a half, or the next one, from at least a half; of a half
it is even under EVEN and the next one under AWAY. -/
theorem roundTies_cases (ties : RoundTies) (n d : Nat) :
    (roundTies ties n d = n / d ∧ 2 * (n % d) ≤ d ∨ roundTies ties n d = n / d + 1 ∧ d ≤ 2 * (n % d)) ∧
      (2 * (n % d) = d →
        (ties = .even → roundTies ties n d % 2 = 0) ∧ (ties = .away → roundTies ties n d = n / d + 1)) := by
  cases ties with
  | even =>
    simp only [roundTies, roundHalfEven, reduceCtorEq, false_implies, and_true, forall_const]
    split_ifs <;> omega
  | away =>
    simp only [roundTies, roundHalfAway, reduceCtorEq, false_implies, true_and, forall_const]
    split_ifs <;> omega

/-- The distance to the rounded integer, times d. -/
theorem roundTies_near (ties : RoundTies) (n : Nat) {d : Nat} (hd : 0 < d) :
    2 * |(n : ℝ) - roundTies ties n d * d| ≤ d ∧
      (2 * |(n : ℝ) - roundTies ties n d * d| = d →
        (ties = .even → roundTies ties n d % 2 = 0) ∧ (ties = .away → (n : ℝ) < roundTies ties n d * d)) := by
  obtain ⟨hval, htie⟩ := roundTies_cases ties n d
  have hn : (d : ℝ) * (n / d : ℕ) + (n % d : ℕ) = n := by exact_mod_cast Nat.div_add_mod n d
  have hr : n % d < d := Nat.mod_lt n hd
  generalize roundTies ties n d = k at *
  generalize n / d = q at *
  generalize n % d = r at *
  rcases hval with ⟨rfl, hle⟩ | ⟨rfl, hle⟩
  · have hdist : |(n : ℝ) - k * d| = r := by
      rw [← hn, mul_comm (d : ℝ), add_sub_cancel_left, Nat.abs_cast]
    rw [hdist]
    refine ⟨by exact_mod_cast hle, fun ht => ?_⟩
    obtain ⟨heven, haway⟩ := htie (by exact_mod_cast ht)
    exact ⟨heven, fun h => absurd (haway h) (by omega)⟩
  · have hr' : (r : ℝ) < d := Nat.cast_lt.2 hr
    have hdist : (n : ℝ) - (q + 1 : ℕ) * d = -(d - r) := by rw [← hn]; push_cast; ring
    rw [hdist, abs_neg, abs_of_pos (sub_pos.2 hr')]
    have hle' : (d : ℝ) ≤ 2 * r := by exact_mod_cast hle
    refine ⟨by linarith, fun ht => ⟨(htie ?_).1, fun _ => by linarith⟩⟩
    have : (2 * r : ℝ) = d := by linarith
    exact_mod_cast this

/-- The integer that a finite magnitude rounds to is itself a finite magnitude: below 2^52 every integer is one, and from
there on the magnitude is an integer already. -/
theorem roundTies_representable (ties : RoundTies) {mag : Nat} (h : mag < infMag) :
    ∃ mag', mag' < infMag ∧ unitsOf mag' = roundTies ties (unitsOf mag) fpOne * fpOne := by
  obtain ⟨s, k, hs, hk, rfl⟩ := mag_shift mag
  by_cases hlarge : 1074 ≤ s
  · have hmul : unitsOf (s * 2 ^ 52 + k) = k * 2 ^ (s - 1074) * fpOne := by
      rw [unitsOf_shift hs hk.le, fpOne, mul_assoc, ← pow_add, Nat.sub_add_cancel hlarge]
    exact ⟨_, h, by rw [hmul, roundTies_mul ties _ fpOne_pos]⟩
  · have hquot : unitsOf (s * 2 ^ 52 + k) / fpOne < 2 ^ 52 := by
      rw [Nat.div_lt_iff_lt_mul fpOne_pos, unitsOf_shift hs hk.le]
      calc k * 2 ^ s < 2 ^ 53 * 2 ^ s := Nat.mul_lt_mul_of_pos_right hk (Nat.two_pow_pos s)
        _ ≤ 2 ^ 52 * fpOne := by
          rw [fpOne, ← pow_add, ← pow_add]
          exact pow_le_pow_right₀ one_le_two (by omega)
    have hint : roundTies ties (unitsOf (s * 2 ^ 52 + k)) fpOne ≤ 2 ^ 53 := by
      rcases (roundTies_cases ties (unitsOf (s * 2 ^ 52 + k)) fpOne).1 with ⟨hq, -⟩ | ⟨hq, -⟩ <;> omega
    obtain ⟨mag', hmag', -, hu⟩ := finite_packMag (unpack_fpOfNat hint)
    exact ⟨mag', hmag', hu.symm⟩

/-- `rnd` delivers its integer exactly: the result is not rounded again (00_scope.md R24). -/
theorem unpack_fpRnd {x : F64} {p : Bool} {m : Nat} (h : unpack x = .fin p m) (ties : RoundTies) (cell : Nat) :
    unpack (fpRnd ties cell x) = .fin p (roundTies ties m fpOne * fpOne) := by
  obtain ⟨mag, hmag, -, rfl⟩ := finite_packMag h
  obtain ⟨mag', hmag', hu⟩ := roundTies_representable ties hmag
  have hround : fpRnd ties cell x = packMag p (roundMag (unitsOf mag' * 1) 1) := by
    rw [fpRnd, h, mul_one, hu]
  rw [hround, roundMag_exact hmag' one_pos, unpack_packMag p hmag', hu]

theorem fpRnd_inf {x : F64} {p : Bool} (h : unpack x = .inf p) (ties : RoundTies) (cell : Nat) :
    fpRnd ties cell x = x := by
  rw [fpRnd, h]; exact (eq_of_unpack_inf h).symm

theorem fpRnd_nan {x : F64} (h : unpack x = .nan) (ties : RoundTies) (cell : Nat) :
    unpack (fpRnd ties cell x) = .nan := by
  rw [fpRnd, h]; exact unpack_freshNaN ..

/-- The only pattern of a zero is its sign. -/
theorem eq_of_unpack_zero {x : F64} {p : Bool} (h : unpack x = .fin p 0) : x = packMag p 0 := by
  obtain ⟨mag, -, hx, hu⟩ := finite_packMag h
  rw [hx, unitsOf_eq_zero.1 hu.symm]

theorem packMag_zero_signOnly (x : F64) : packMag x.msb 0 = x &&& 0x8000000000000000#64 := by
  rw [show 0x8000000000000000#64 = BitVec.twoPow 64 63 by decide, BitVec.and_twoPow, packMag_zero,
    BitVec.msb_eq_getLsbD_last]
  rfl

theorem even_signed (p : Bool) (m : Nat) : Even (signed p m) ↔ Even m := by
  cases p <;> simp [signed]

/-- `rnd` of a finite element is the nearest integer under the tie rule, with the element's sign (00_scope.md R24). -/
theorem fpRnd_finite {x : F64} (hx : fpFinite x = true) (ties : RoundTies) (cell : Nat) :
    fpFinite (fpRnd ties cell x) = true ∧ ∃ k : ℤ, fpReal (fpRnd ties cell x) = k ∧
      |fpReal x - k| ≤ 1 / 2 ∧
      (|fpReal x - k| = 1 / 2 → (ties = .even → Even k) ∧ (ties = .away → |fpReal x| < |(k : ℝ)|)) ∧
      (k = 0 → fpRnd ties cell x = x &&& 0x8000000000000000#64) := by
  obtain ⟨p, m, hm⟩ := fpFinite_iff.1 hx
  have hr := unpack_fpRnd hm ties cell
  obtain ⟨hnear, htie⟩ := roundTies_near ties m fpOne_pos
  have hone := fpOne_cast_pos
  have hval : fpReal (fpRnd ties cell x) = signed p (roundTies ties m fpOne) := by
    rw [fpReal_fin hr, signed_cast, signed_cast, Nat.cast_mul, ← mul_assoc, mul_div_cancel_right₀ _ hone.ne']
  have hdist : |fpReal x - signed p (roundTies ties m fpOne)| = |(m : ℝ) - roundTies ties m fpOne * fpOne| / fpOne := by
    rw [fpReal_fin hm, signed_cast, signed_cast, mul_div_assoc, ← mul_sub, abs_mul, abs_signFactor, one_mul,
      div_sub' hone.ne', abs_div, abs_of_pos hone, mul_comm (fpOne : ℝ)]
  refine ⟨fpFinite_iff.2 ⟨_, _, hr⟩, _, hval, ?_, ?_, ?_⟩
  · rw [hdist, div_le_iff₀ hone]; linarith
  · rw [hdist, div_eq_iff hone.ne']
    intro ht
    obtain ⟨heven, haway⟩ := htie (by linarith)
    refine ⟨fun h => (even_signed p _).2 (Nat.even_iff.2 (heven h)), fun h => ?_⟩
    rw [fpReal_fin hm, signed_cast, signed_cast, mul_div_assoc, abs_mul, abs_mul, abs_signFactor, one_mul, one_mul,
      Nat.abs_cast, abs_of_nonneg (units_nonneg m), div_lt_iff₀ hone]
    exact haway h
  · intro hk
    have hz : roundTies ties m fpOne = 0 := by
      cases p <;> simpa [signed] using hk
    rw [hz, Nat.zero_mul] at hr
    rw [eq_of_unpack_zero hr, ← msb_of_fin hm, packMag_zero_signOnly]

/-! Comparing and clipping -/

theorem fpLt_fin {x y : F64} (hx : fpFinite x = true) (hy : fpFinite y = true) :
    fpLt x y = true ↔ fpReal x < fpReal y := by
  obtain ⟨p, m, hm⟩ := fpFinite_iff.1 hx
  obtain ⟨q, n, hn⟩ := fpFinite_iff.1 hy
  rw [fpLt, hm, hn, fpReal_fin hm, fpReal_fin hn, div_lt_div_iff_of_pos_right fpOne_cast_pos, Int.cast_lt, Fp.lt,
    decide_eq_true_iff]

theorem fpLt_inf_left {x y : F64} {p : Bool} (hx : unpack x = .inf p) (hy : fpFinite y = true) : fpLt x y = p := by
  obtain ⟨q, n, hn⟩ := fpFinite_iff.1 hy
  rw [fpLt, hx, hn, Fp.lt]

theorem fpLt_inf_right {x y : F64} {p : Bool} (hx : fpFinite x = true) (hy : unpack y = .inf p) : fpLt x y = !p := by
  obtain ⟨q, n, hn⟩ := fpFinite_iff.1 hx
  rw [fpLt, hn, hy, Fp.lt]

theorem fpLt_nan_left {x : F64} (h : unpack x = .nan) (y : F64) : fpLt x y = false := by rw [fpLt, h]; rfl

theorem fpLt_nan_right {y : F64} (h : unpack y = .nan) (x : F64) : fpLt x y = false := by
  rw [fpLt, h]; cases unpack x <;> rfl

section
variable {x lo hi : F64}

theorem fpClip_low (h : fpLt x lo = true) : fpClip x lo hi = lo := if_pos h

theorem fpClip_high (hlo : fpLt x lo = false) (hhi : fpLt hi x = true) : fpClip x lo hi = hi := by
  rw [fpClip, hlo, hhi]; rfl

theorem fpClip_pass (hlo : fpLt x lo = false) (hhi : fpLt hi x = false) : fpClip x lo hi = x := by
  rw [fpClip, hlo, hhi]; rfl

theorem fpLt_eq_false (hx : fpFinite x = true) (hlo : fpFinite lo = true) (h : fpReal lo ≤ fpReal x) :
    fpLt x lo = false := by
  rw [← Bool.not_eq_true, fpLt_fin hx hlo, not_lt]; exact h

end

end Sys2Proof.Machine

namespace Sys2Proof

open Machine

/-- Settles O57: `rnd` by the kind of its operand, `clip` by the comparisons of its operand with the bounds. -/
theorem roundAndClip : Obligations.RoundAndClip := by
  refine ⟨fun ties cell x => ⟨fun hx => fpRnd_finite hx ties cell, fun p hp => fpRnd_inf hp ties cell,
    fun hx => fpIsNaN_iff.2 (fpRnd_nan (fpIsNaN_iff.1 hx) ties cell)⟩, fun x lo hi hlo hhi => ?_, by decide +kernel⟩
  refine ⟨fun hx h => ?_, fun hx h h' => ?_, fun hx h h' => ?_, fun hx => ?_, fun hx => ?_, fun hx => ?_⟩
  · exact fpClip_low ((fpLt_fin hx hlo).2 h)
  · exact fpClip_high (fpLt_eq_false hx hlo h) ((fpLt_fin hhi hx).2 h')
  · exact fpClip_pass (fpLt_eq_false hx hlo h) (fpLt_eq_false hhi hx h')
  · exact fpClip_low (fpLt_inf_left hx hlo)
  · exact fpClip_high (fpLt_inf_left hx hlo) (fpLt_inf_right hhi hx)
  · have hnan := fpIsNaN_iff.1 hx
    exact fpClip_pass (fpLt_nan_left hnan lo) (fpLt_nan_right hnan hi)

end Sys2Proof

/-! PROOFS. What the commands of the transform and quantization units deliver on an operand that passes their checks, and
the statements O13, O22, O23 and O24 about them. -/

namespace Sys2Proof.Machine

/-! The end of a command whose operand passes its checks -/

section
variable {s : State} {vs : Fin 8} (vd : Fin 8)

/-- A command on an 8×8 REAL operand commits the block it computes. -/
theorem finish_blockOperand {xs : List F64} (h : s.v[vs] = some ⟨8, 8, .real xs⟩) (f : List F64 → List F64) :
    s.finish vd (do let xs ← s.blockOperand vs; return realBlock (f xs)) =
      .next (s.committed vd ⟨8, 8, .real (f xs)⟩) := by
  rw [State.blockOperand_ok.2 h]; rfl

/-- A command on an 8×8 REAL operand with a legal depth commits the block it computes. -/
theorem finish_depthOperand {d : Nat} {xs : List F64} (h : s.v[vs] = some ⟨8, 8, .real xs⟩) (hd : d = 8 ∨ d = 16)
    (f : List F64 → List F64) :
    s.finish vd (do let xs ← s.depthOperand vs d; return realBlock (f xs)) =
      .next (s.committed vd ⟨8, 8, .real (f xs)⟩) := by
  rw [State.depthOperand_ok.2 ⟨h, hd⟩]; rfl

/-- A command on a square operand commits the complex matrix it computes from the operand's complex elements. -/
theorem finish_squareOperand {n : Nat} {e : Elems} (h : s.v[vs] = some ⟨n, n, e⟩) (f : Nat → List C64 → List C64) :
    s.finish vd (do let (n, zs) ← s.squareOperand vs; return cplxSquare n (f n zs)) =
      .next (s.committed vd ⟨n, n, .cplx (f n e.toComplex)⟩) := by
  rw [State.squareOperand_ok.2 ⟨e, h, rfl⟩]; rfl

/-- DFT8 and IDFT8 on an 8×8 operand commit the complex matrix they compute from its complex elements. -/
theorem finish_dft8Operand {e : Elems} (h : s.v[vs] = some ⟨8, 8, e⟩) (f : List C64 → List C64) :
    s.finish vd (do let zs ← s.dft8Operand vs; return cplxSquare 8 (f zs)) =
      .next (s.committed vd ⟨8, 8, .cplx (f e.toComplex)⟩) := by
  rw [State.dft8Operand_ok.2 ⟨e, h, rfl⟩]; rfl

end

/-! Exact transposes (00_scope.md R31) -/

theorem rasterIndex_lt {n r c : Nat} (hr : r < n) (hc : c < n) : n * r + c < n * n := by nlinarith

theorem transpose_getElem? {α : Type} [Inhabited α] {n r c : Nat} {xs : List α} (hlen : xs.length = n * n)
    (hr : r < n) (hc : c < n) : (transpose n xs)[n * r + c]? = xs[n * c + r]? := by
  have hrow : (n * r + c) / n = r := by
    rw [Nat.mul_add_div (by omega), Nat.div_eq_of_lt hc, Nat.add_zero]
  have hcol : (n * r + c) % n = c := by rw [Nat.mul_add_mod, Nat.mod_eq_of_lt hc]
  have hin : n * c + r < xs.length := hlen ▸ rasterIndex_lt hc hr
  rw [transpose, List.getElem?_map, List.getElem?_range (rasterIndex_lt hr hc), Option.map_some, hrow, hcol,
    Nat.mul_comm c n, List.getD_eq_getElem _ _ hin, List.getElem?_eq_getElem hin]

end Sys2Proof.Machine

namespace Sys2Proof

open Machine

/-- Settles O13: a cell of the transpose is the mirrored cell, and conjugation acts on it alone. -/
theorem exactTransposes : Obligations.ExactTransposes := by
  refine ⟨fun n r c xs hlen hr hc => ⟨transpose_length n xs, transpose_getElem? hlen hr hc⟩,
    fun n r c zs hlen hr hc => ⟨conjTranspose_length n zs, ?_⟩⟩
  have hin : n * c + r < zs.length := hlen ▸ rasterIndex_lt hc hr
  refine ⟨zs[n * c + r], List.getElem?_eq_getElem hin, ?_⟩
  rw [conjTranspose, List.getElem?_map, transpose_getElem? hlen hr hc, List.getElem?_eq_getElem hin]
  rfl

end Sys2Proof

namespace Sys2Proof.Machine

/-! Zeros -/

/-- A zero divided by a finite nonzero element is a zero. -/
theorem fpIsZero_fpDiv {x y : F64} {q : Bool} {n : Nat} (hx : fpIsZero x = true) (hy : unpack y = .fin q n)
    (hn : n ≠ 0) (cell : Nat) : fpIsZero (fpDiv cell x y) = true := by
  obtain ⟨p, hp⟩ := fpIsZero_iff.1 hx
  rw [fpDiv_zero cell hp hy hn]
  exact fpIsZero_iff.2 ⟨_, unpack_packMag_zero _⟩

/-- The divisions of DFT and DFT8 keep an all-zero matrix all zero (43_dft.md R235). -/
theorem scaleParts_zero {zs : List C64} (h : ∀ z ∈ zs, complexIsZero z = true) {n : Nat} (h1 : 1 ≤ n) (h2 : n ≤ 2 ^ 53) :
    ∀ y ∈ scaleParts zs (fpOfNat n), complexIsZero y = true := by
  have hn : n * fpOne ≠ 0 := Nat.mul_ne_zero (by omega) fpOne_pos.ne'
  intro y hy
  obtain ⟨i, hi, rfl⟩ := List.mem_mapIdx.1 hy
  obtain ⟨hre, him⟩ := Bool.and_eq_true_iff.1 (h _ (List.getElem_mem hi))
  exact Bool.and_eq_true_iff.2
    ⟨fpIsZero_fpDiv hre (unpack_fpOfNat h2) hn _, fpIsZero_fpDiv him (unpack_fpOfNat h2) hn _⟩

/-- A DFT command commits a function of the constant store and of the operand's complex elements, and that function maps
all-zero elements to all-zero ones (43_dft.md R230 to R235). -/
theorem dftCommand_computes {i : Instr} {vd vs : Fin 8} {n : Nat}
    (hi : i ∈ [Instr.dft vd vs, .idft vd vs, .dft8 vd vs, .idft8 vd vs])
    (h8 : i = .dft8 vd vs ∨ i = .idft8 vd vs → n = 8) :
    ∃ f : ConstStore → List C64 → List C64,
      (∀ (s : State) (e : Elems), s.v[vs] = some ⟨n, n, e⟩ →
        exec i s = .next (s.committed vd ⟨n, n, .cplx (f s.rom e.toComplex)⟩)) ∧
      ∀ rom zs, 1 ≤ n → n ≤ 16 → (∀ z ∈ zs, complexIsZero z = true) → ∀ y ∈ f rom zs, complexIsZero y = true := by
  simp only [List.mem_cons, List.not_mem_nil, or_false] at hi
  rcases hi with rfl | rfl | rfl | rfl
  case inl =>
    refine ⟨fun _ zs => scaleParts (numCsim n (numOmega n) zs (conjTranspose n (numOmega n))) (fpOfNat (n * n)),
      fun s e h => finish_squareOperand vd h fun n zs =>
        scaleParts (numCsim n (numOmega n) zs (conjTranspose n (numOmega n))) (fpOfNat (n * n)), ?_⟩
    intro _ zs h1 h16 hz
    exact scaleParts_zero (complexZeroToZero_zero hz _) (by nlinarith) (by nlinarith)
  case inr.inl =>
    exact ⟨fun _ zs => numCsim n (conjTranspose n (numOmega n)) zs (numOmega n),
      fun s e h => finish_squareOperand vd h fun n zs => numCsim n (conjTranspose n (numOmega n)) zs (numOmega n),
      fun _ zs _ _ hz => complexZeroToZero_zero hz _⟩
  case inr.inr.inl =>
    obtain rfl := h8 (.inl rfl)
    exact ⟨fun rom zs => scaleParts (numCsim 8 rom.omega8 zs rom.omega8H) (fpOfNat 64),
      fun s e h => finish_dft8Operand vd h _,
      fun _ zs _ _ hz => scaleParts_zero (complexZeroToZero_zero hz _) (by omega) (by omega)⟩
  case inr.inr.inr =>
    obtain rfl := h8 (.inr rfl)
    exact ⟨fun rom zs => numCsim 8 rom.omega8H zs rom.omega8,
      fun s e h => finish_dft8Operand vd h _, fun _ zs _ _ hz => complexZeroToZero_zero hz _⟩

/-- A DCT command commits a function of the constant store and of the operand's elements, and that function maps all-zero
elements to all-zero ones (42_dct.md R211 to R215). -/
theorem dctCommand_computes {i : Instr} {vd vs : Fin 8}
    (hi : i ∈ [Instr.dctk vd vs, .idctk vd vs, .dcto vd vs, .idcto vd vs]) :
    ∃ f : ConstStore → List F64 → List F64,
      (∀ (s : State) (xs : List F64), s.v[vs] = some ⟨8, 8, .real xs⟩ →
        exec i s = .next (s.committed vd ⟨8, 8, .real (f s.rom xs)⟩)) ∧
      ∀ rom xs, (∀ x ∈ xs, fpIsZero x = true) → ∀ y ∈ f rom xs, fpIsZero y = true := by
  simp only [List.mem_cons, List.not_mem_nil, or_false] at hi
  rcases hi with rfl | rfl | rfl | rfl
  · exact ⟨fun rom => numKron rom.c8II, fun s xs h => finish_blockOperand vd h _,
      fun _ _ hz => zeroToZero_zero hz _⟩
  · exact ⟨fun rom => numKron rom.c8III, fun s xs h => finish_blockOperand vd h _,
      fun _ _ hz => zeroToZero_zero hz _⟩
  · exact ⟨forwardDct, fun s xs h => finish_blockOperand vd h _, fun _ _ hz => zeroToZero_zero hz _⟩
  · exact ⟨inverseDct, fun s xs h => finish_blockOperand vd h _, fun _ _ hz => zeroToZero_zero hz _⟩

/-- The two values of h(d) (44_quant.md R250). -/
theorem halfRange_eq {d : Nat} (hd : d = 8 ∨ d = 16) :
    halfRange d = if d = 8 then 0x4060000000000000#64 else 0x40E0000000000000#64 := by
  rcases hd with rfl | rfl <;> decide +kernel

/-- The elements of a REAL register are all zero exactly when their complex readings are. -/
theorem allZero_real {xs : List F64} : (Elems.real xs).allZero ↔ ∀ x ∈ xs, fpIsZero x = true := by
  have hz : fpIsZero fpZero = true := by decide
  simp [Elems.allZero, Elems.toComplex, complexIsZero, toComplex, hz]

end Sys2Proof.Machine

namespace Sys2Proof

open Machine

/-- Settles O22: a DFT command computes from the complex reading of its operand, which is the same for both registers. -/
theorem realOperandReadAsComplex : Obligations.RealOperandReadAsComplex := by
  intro s vd vs n xs h i hi h8
  obtain ⟨f, hf, -⟩ := dftCommand_computes hi h8
  refine ⟨_, _, hf s _ h, hf _ (.cplx (xs.map toComplex)) (Vector.getElem_set_self ..), ?_, rfl, rfl⟩
  simp [State.committed, Elems.toComplex]

/-- Settles O23: P-ZERO for the three products, carried through every DCT and DFT command. -/
theorem zeroOperandGivesZeroTransform : Obligations.ZeroOperandGivesZeroTransform := by
  refine ⟨fun _ _ hz => zeroToZero_zero hz _, fun _ _ _ hz => zeroToZero_zero hz _,
    fun _ _ _ _ hz => complexZeroToZero_zero hz _, fun s vd vs n e h1 h16 h hz => ?_⟩
  have dftZero : ∀ i ∈ [Instr.dft vd vs, .idft vd vs, .dft8 vd vs, .idft8 vd vs],
      (i = .dft8 vd vs ∨ i = .idft8 vd vs → n = 8) →
      ∃ zs : Elems, exec i s = .next (s.committed vd ⟨n, n, zs⟩) ∧ zs.allZero := by
    intro i hi h8
    obtain ⟨f, hf, hzero⟩ := dftCommand_computes hi h8
    exact ⟨_, hf s e h, hzero _ _ h1 h16 hz⟩
  refine ⟨?_, ?_, ?_⟩
  · intro i hi
    exact dftZero i (List.mem_append_left _ hi) (by rintro (rfl | rfl) <;> simp at hi)
  · rintro rfl i hi
    exact dftZero i (List.mem_cons_of_mem _ (List.mem_cons_of_mem _ hi)) fun _ => rfl
  · rintro rfl hreal i hi
    obtain ⟨f, hf, hzero⟩ := dctCommand_computes hi
    cases e with
    | real xs => exact ⟨_, hf s xs h, allZero_real.2 (hzero _ _ (allZero_real.1 hz))⟩
    | cplx zs => cases hreal

/-- Settles O24: each of the three commands maps its cell function over the raster indices. -/
theorem elementwiseCommandResults : Obligations.ElementwiseCommandResults := by
  intro s vd vs xs h
  refine ⟨fun d hd => ⟨_, finish_depthOperand vd h hd _, centerCells_length d xs, ?_⟩,
    ⟨_, finish_blockOperand vd h _, quantCells_length _ _ xs, ?_⟩,
    ⟨_, finish_blockOperand vd h _, dequantCells_length _ xs, ?_⟩⟩
  · intro i x hx
    rw [← halfRange_eq hd, centerCells, List.getElem?_mapIdx, hx]; rfl
  · intro i x q hx hq
    simp [quantCells, ConstStore.quantum, hx, hq]
  · intro i x q hx hq
    simp [dequantCells, ConstStore.quantum, hx, hq]

end Sys2Proof

/-! PROOFS. What an executed command, an access of the host and a step can do to the state, each said once as a family of
outcomes; the invariant and the safety statements O38, O45, O53 and O54 are then case analyses over these families. -/

namespace Sys2Proof.Machine

/-! The outcomes of a step -/

/-- The states an executed word can lead to (40_control.md R171). -/
inductive Executes (s : State) (w : Word) : State → Prop where
  | commit (vd : Fin 8) (m : Matrix) (wf : s.regsWf → m.wf) : Executes s w (s.writeV vd m).complete
  | mask (j : Fin 4) (pol : Policy) (k : Nat) (x : BitVec 64) (hd : decode w = .ok (.mkmask j pol k)) :
      Executes s w (s.writeMask j x).complete
  | nothing : Executes s w s.complete
  | raised (e : ErrCode) : Executes s w (s.raise e)

theorem Instr.eq_mkmask_of_destMask {i : Instr} {j : Fin 4} (h : i.destMask = some j) :
    ∃ pol k, i = .mkmask j pol k := by
  cases i with
  | mkmask j' pol k => cases h; exact ⟨pol, k, rfl⟩
  | _ => cases h

theorem State.execute_does {s t : State} {w : Word} (h : s.execute w = .next t) : Executes s w t := by
  cases s.execute_ends w with
  | illegal r hd he =>
    cases he.symm.trans h
    exact .raised .illegal
  | command i hd he =>
    have hexec : exec i s = .next t := he.symm.trans h
    cases exec_ends i s with
    | matrix vd m hdest hm wf => cases hm.symm.trans hexec; exact .commit vd m wf
    | mask j x hdest hm =>
      obtain ⟨pol, k, rfl⟩ := Instr.eq_mkmask_of_destMask hdest
      cases hm.symm.trans hexec
      exact .mask j pol k x hd
    | nothing hi hm => cases hm.symm.trans hexec; exact .nothing
    | raised e hm => cases hm.symm.trans hexec; exact .raised e

/-- The states an access can lead to, with the access where it matters which one it was (20_memory.md R103 to R117). A
read, a refused access and a write of a read-only or reserved register are all `observes`. -/
inductive Serves (s : State) : Access → State → Prop where
  | observes (a : Access) (x y : Word) (h : Bool) (hh : s.herr = true → h = true) :
      Serves s a { s with rhiRe := x, rhiIm := y, herr := h }
  | latches (a : Access) (x y : Word) : Serves s a { s with wloRe := x, wloIm := y }
  | element (a : Access) (m : Matrix) (wf : s.regsWf → m.wf) : Serves s a (s.writeV s.vsel m)
  | issues (w : Word) : Serves s (writeAt 0x08 w) (s.issueDrawn w)
  | select (w : Word) (k : Fin 8) : Serves s (writeAt 0x18 w) { s with vsel := k }
  | index (w : Word) (i : BitVec 16) : Serves s (writeAt 0x20 w) { s with idx := i }
  | enables (w : Word) : Serves s (writeAt 0x14 w) { s with irqEn := w.getLsbD 0 }
  | clears (w : Word) (h : w.getLsbD 1 = true) :
      Serves s (writeAt 0x14 w) { s with irqEn := w.getLsbD 0 }.acknowledge
  | softReset (w : Word) (h : w.getLsbD 2 = true) : Serves s (writeAt 0x14 w) s.softReset

/-- The offsets of the registers whose writes a claim names (10_state.md R60). -/
theorem off_of_winReg : ∀ off : BitVec 8,
    (winReg off = .cmd → off = 0x08) ∧ (winReg off = .ctrl → off = 0x14) ∧
    (winReg off = .dsel → off = 0x18) ∧ (winReg off = .didx → off = 0x20) := by
  decide

/-- A refused access, or a write that only sets HERR. -/
theorem Serves.setHerr (s : State) (a : Access) : Serves s a s.setHerr :=
  .observes a s.rhiRe s.rhiIm true fun _ => rfl

theorem State.writeAt_serves (s : State) (off : BitVec 8) (w : Word) :
    Serves s (writeAt off w) (s.writeReg (winReg off) w) := by
  obtain ⟨hcmd, hctrl, hdsel, hdidx⟩ := off_of_winReg off
  have hdoes := s.writeReg_does (winReg off) w
  generalize winReg off = r, s.writeReg (winReg off) w = t at *
  cases hdoes with
  | ignored => exact .observes _ s.rhiRe s.rhiIm s.herr id
  | refused => exact .setHerr s _
  | issues => rw [hcmd rfl]; exact .issues w
  | select k => rw [hdsel rfl]; exact .select w k
  | index i => rw [hdidx rfl]; exact .index w i
  | latchRe x => exact .latches _ x s.wloIm
  | latchIm x => exact .latches _ s.wloRe x
  | element _ _ _ m wf => exact .element _ m wf
  | control =>
    rw [hctrl rfl]
    rcases s.writeCtrl_cases w with ⟨h2, h⟩ | ⟨-, h1, h⟩ | ⟨-, -, h⟩ <;> rw [h]
    · exact .softReset w h2
    · exact .clears w h1
    · exact .enables w

theorem State.serve_does (s : State) (a : Access) : Serves s a (s.serve a).1 := by
  cases hdef : a.defined with
  | false => rw [s.serve_refused hdef]; exact .setHerr s a
  | true =>
    cases hop : a.op with
    | read =>
      obtain ⟨x, y, h, hread, hh⟩ := s.readReg_state (winReg a.off)
      rw [s.serve_read hdef hop, hread]
      exact .observes a x y h hh
    | write w =>
      have ha : a = writeAt a.off w := by
        obtain ⟨off, width, op⟩ := a
        simp only [Access.defined, Bool.and_eq_true, decide_eq_true_eq] at hdef hop
        rw [hdef.1, hop]; rfl
      rw [s.serve_write hdef hop]
      conv_lhs => rw [ha]
      exact s.writeAt_serves a.off w

/-- The state an access finds: the event is no longer to come, and a pending command's wait has gone down by one. -/
def State.served (s : State) (rest : List HostEvent) : State := { s with script := rest }.tick

/-- The states a step can lead to. -/
inductive StepDoes (s : State) : State → Prop where
  | executes (w : Word) (t : State) (ht : s.turn = .engine w) (h : Executes s w t) : StepDoes s t
  | serves (a : Access) (rest : List HostEvent) (ans : List Answer) (t : State) (ht : s.turn = .host (.access a) rest)
      (h : Serves (s.served rest) a t) : StepDoes s { t with answers := ans }
  | hardReset (rest : List HostEvent) (ht : s.turn = .host .hardReset rest) :
      StepDoes s { s.hardReset with script := rest }
  | idle : StepDoes s s

theorem step_does {s t : State} (h : step s = .next t) : StepDoes s t := by
  unfold step at h
  cases ht : s.turn with
  | engine w =>
    rw [ht] at h
    exact .executes w t ht (State.execute_does h)
  | host ev rest =>
    rw [ht] at h
    cases h
    cases ev with
    | hardReset => exact .hardReset rest ht
    | access a => exact .serves a rest _ _ ht ((s.served rest).serve_does a)
  | idle =>
    rw [ht] at h
    cases h
    exact .idle

/-! The invariant -/

/-- Replacing one register by a matrix of a legal shape keeps every register legal (10_state.md R44). -/
theorem State.regsWf_writeV {s : State} (hs : s.regsWf) {m : Matrix} (hm : m.wf) (r : Fin 8) :
    (s.writeV r m).regsWf := by
  intro r' m' h
  by_cases hr : r = r'
  · subst hr
    rw [State.writeV_v, Fin.getElem_fin, Vector.getElem_set_self, Option.some.injEq] at h
    exact h ▸ hm
  · rw [State.writeV_v, Fin.getElem_fin, Vector.getElem_set_ne _ _ (Fin.val_ne_of_ne hr)] at h
    exact hs r' m' h

theorem regsWf_replicate (r : Fin 8) (m : Matrix) (h : (Vector.replicate 8 none : Vector (Option Matrix) 8)[r] = some m) :
    m.wf := by
  rw [Fin.getElem_fin, Vector.getElem_replicate] at h
  cases h

/-- The constant store of a build with a legal table holds its defining values (10_state.md R53 to R57). -/
theorem ConstStore.ofBuild_wf {q : List F64} (h : qtabLegal q) : (ConstStore.ofBuild q).wf := ⟨rfl, rfl, rfl, rfl, h⟩

/-- Without a pending command, and with MERR only beside ERR, legal registers and constants are all of the invariant. -/
theorem State.Inv.of_idle {s : State} (regs : s.regsWf) (rom : s.rom.wf) (hp : s.pend = none)
    (hm : s.merr = true → s.err.isSome = true) : s.Inv :=
  ⟨regs, rom, fun _ h => absurd (hp.symm.trans h) nofun, hm⟩

theorem Executes.inv {s t : State} {w : Word} (h : Executes s w t) (hs : s.Inv) : t.Inv := by
  obtain ⟨regs, rom, -, merr⟩ := hs
  cases h with
  | commit vd m wf => exact .of_idle (State.regsWf_writeV regs (wf regs) vd) rom rfl merr
  | mask => exact .of_idle regs rom rfl merr
  | nothing => exact .of_idle regs rom rfl merr
  | raised e => exact .of_idle (fun r m => by simpa using regs r m) (by simpa using rom) (by simp) (by simp)

theorem State.Inv.served {s : State} (hs : s.Inv) (rest : List HostEvent) : (s.served rest).Inv := by
  refine ⟨hs.regs, hs.rom, fun p hp => ?_, hs.merr⟩
  obtain ⟨q, hq, rfl⟩ := Option.map_eq_some_iff.1 hp
  exact hs.pending q hq

theorem Serves.inv {s t : State} {a : Access} (h : Serves s a t) (hs : s.Inv) : t.Inv := by
  obtain ⟨regs, rom, pending, merr⟩ := hs
  cases h with
  | observes => exact ⟨regs, rom, pending, merr⟩
  | latches => exact ⟨regs, rom, pending, merr⟩
  | element _ m wf => exact ⟨State.regsWf_writeV regs (wf regs) _, rom, pending, merr⟩
  | issues w => exact ⟨regs, rom, fun p hp => ⟨rfl, congrArg Pending.word (Option.some.inj hp)⟩, merr⟩
  | select => exact ⟨regs, rom, pending, merr⟩
  | index => exact ⟨regs, rom, pending, merr⟩
  | enables => exact ⟨regs, rom, pending, merr⟩
  | clears => exact ⟨regs, rom, fun p hp => ⟨rfl, (pending p hp).2⟩, nofun⟩
  | softReset => exact .of_idle regsWf_replicate rom rfl nofun

end Sys2Proof.Machine

namespace Sys2Proof

open Machine

/-- Settles O38: every outcome of a command and of an access keeps the invariant, and a hard reset restores it. -/
theorem invariantKeptByStep : Obligations.InvariantKeptByStep := by
  intro s t hs h
  cases step_does h with
  | executes w _ _ hex => exact hex.inv hs
  | serves a rest ans u _ hserve =>
    obtain ⟨regs, rom, pending, merr⟩ := hserve.inv (hs.served rest)
    exact ⟨regs, rom, pending, merr⟩
  | hardReset =>
    obtain ⟨-, -, -, -, hq⟩ := hs.rom
    exact .of_idle regsWf_replicate (ConstStore.ofBuild_wf hq) rfl nofun
  | idle => exact hs

end Sys2Proof

namespace Sys2Proof.Machine

/-! What steps keep -/

/-- The fields no executed word writes (40_control.md R173). -/
theorem Executes.keeps {s t : State} {w : Word} (h : Executes s w t) :
    t.rom = s.rom ∧ t.ties = s.ties ∧ t.herr = s.herr ∧ t.vsel = s.vsel ∧ t.idx = s.idx := by
  cases h with
  | commit | mask | nothing => exact ⟨rfl, rfl, rfl, rfl, rfl⟩
  | raised e => simp

/-- No access, and no soft reset, writes the constant store or the build's tie rule (10_state.md R53). -/
theorem Serves.keeps_rom {s t : State} {a : Access} (h : Serves s a t) : t.rom = s.rom ∧ t.ties = s.ties := by
  cases h <;> exact ⟨rfl, rfl⟩

theorem ConstStore.ofBuild_qtab {rom : ConstStore} (h : rom.wf) : ConstStore.ofBuild rom.qtab = rom := by
  obtain ⟨h2, h3, ho, hoH, -⟩ := h
  cases rom
  cases h2; cases h3; cases ho; cases hoH
  rfl

/-- ERR with its record, MERR and HERR are still set where they were (10_state.md R64 to R68). -/
structure State.Sticky (s t : State) : Prop where
  err : ∀ r, s.err = some r → t.err = some r
  merr : s.merr = true → t.merr = true
  herr : s.herr = true → t.herr = true

theorem Executes.sticky {s t : State} {w : Word} (h : Executes s w t) : s.Sticky t := by
  cases h with
  | commit | mask | nothing => exact ⟨fun _ => id, id, id⟩
  | raised e => exact ⟨fun r hr => by simp [hr], fun hm => by simp [hm], fun hh => by simp [hh]⟩

/-- The access is no CTRL write with CLR. -/
def Access.noClear (a : Access) : Prop := ∀ w, a = writeAt 0x14 w → w.getLsbD 1 ≠ true

/-- The access is no CTRL write with SRST. -/
def Access.noReset (a : Access) : Prop := ∀ w, a = writeAt 0x14 w → w.getLsbD 2 ≠ true

theorem Serves.sticky {s t : State} {a : Access} (h : Serves s a t) (hc : a.noClear) (hr : a.noReset) :
    s.Sticky t := by
  cases h with
  | observes _ _ _ _ hh => exact ⟨fun _ => id, id, hh⟩
  | clears w h1 => exact absurd h1 (hc w rfl)
  | softReset w h2 => exact absurd h2 (hr w rfl)
  | latches | element | issues | select | index | enables => exact ⟨fun _ => id, id, id⟩

/-- A valid register stays valid under a write of one of them (10_state.md R46, R51). -/
theorem isSome_set {α : Type} {n : Nat} {xs : Vector (Option α) n} {j : Fin n} (h : (xs[j]).isSome = true) (i : Fin n)
    (a : α) : ((xs.set i (some a))[j]).isSome = true := by
  rw [Fin.getElem_fin, Vector.getElem_set]
  split
  · rfl
  · exact h

/-- Every valid bit of V and MK is still set where it was (10_state.md R46, R51). -/
structure State.KeepsValid (s t : State) : Prop where
  v : ∀ r : Fin 8, (s.v[r]).isSome = true → (t.v[r]).isSome = true
  masks : ∀ j : Fin 4, (s.masks[j]).isSome = true → (t.masks[j]).isSome = true

theorem Executes.keepsValid {s t : State} {w : Word} (h : Executes s w t) : s.KeepsValid t := by
  cases h with
  | commit vd m => exact ⟨fun r hr => isSome_set hr vd m, fun _ => id⟩
  | mask j _ _ x => exact ⟨fun _ => id, fun i hi => isSome_set hi j x⟩
  | nothing => exact ⟨fun _ => id, fun _ => id⟩
  | raised e => exact ⟨fun r hr => by simpa using hr, fun j hj => by simpa using hj⟩

theorem Serves.keepsValid {s t : State} {a : Access} (h : Serves s a t) (hr : a.noReset) : s.KeepsValid t := by
  cases h with
  | element _ m => exact ⟨fun r hr => isSome_set hr s.vsel m, fun _ => id⟩
  | softReset w h2 => exact absurd h2 (hr w rfl)
  | observes | latches | issues | select | index | enables | clears => exact ⟨fun _ => id, fun _ => id⟩

/-- A command that changes a mask register is the MKMASK that names it (10_state.md R52). -/
theorem Executes.mask_changed {s t : State} {w : Word} (h : Executes s w t) {j : Fin 4}
    (hj : t.masks[j] ≠ s.masks[j]) : ∃ pol k, decode w = .ok (.mkmask j pol k) := by
  cases h with
  | commit | nothing => exact absurd rfl hj
  | raised e => exact absurd (by simp) hj
  | mask i pol k x hd =>
    have hij : i = j := by
      by_contra hne
      exact hj (Vector.getElem_set_ne i.isLt j.isLt (Fin.val_ne_of_ne hne))
    exact ⟨pol, k, hij ▸ hd⟩

/-- Only a soft reset among the accesses changes a mask register (10_state.md R52). -/
theorem Serves.keeps_masks {s t : State} {a : Access} (h : Serves s a t) (hr : a.noReset) : t.masks = s.masks := by
  cases h with
  | softReset w h2 => exact absurd h2 (hr w rfl)
  | observes | latches | element | issues | select | index | enables | clears => rfl

/-- An access that changes VSEL is a DSEL write, and one that changes IDX a DIDX write, but for a soft reset (10_state.md
R73, R75). -/
theorem Serves.selection_changed {s t : State} {a : Access} (h : Serves s a t) (hr : a.noReset) :
    (t.vsel ≠ s.vsel → ∃ w, a = writeAt 0x18 w) ∧ (t.idx ≠ s.idx → ∃ w, a = writeAt 0x20 w) := by
  cases h with
  | select w => exact ⟨fun _ => ⟨w, rfl⟩, absurd rfl⟩
  | index w => exact ⟨absurd rfl, fun _ => ⟨w, rfl⟩⟩
  | softReset w h2 => exact absurd h2 (hr w rfl)
  | observes | latches | element | issues | enables | clears => exact ⟨absurd rfl, absurd rfl⟩

section
variable {s : State} {a : Access} {rest : List HostEvent}

theorem State.noReset_of_turn (hn : ¬s.resetsNext) (ht : s.turn = .host (.access a) rest) : a.noReset := by
  rintro w rfl h2
  exact hn ⟨_, _, ht, .inr ⟨w, rfl, h2⟩⟩

theorem State.noClear_of_turn (hn : ¬s.clearsNext) (ht : s.turn = .host (.access a) rest) : a.noClear := by
  rintro w rfl h1
  exact hn (.inr ⟨_, _, ht, h1⟩)

theorem State.resetsNext_of_turn (ht : s.turn = .host .hardReset rest) : s.resetsNext := ⟨_, _, ht, .inl rfl⟩

end

end Sys2Proof.Machine

namespace Sys2Proof

open Machine

/-- Settles O45: only the CTRL writes among the outcomes of a step clear a flag. -/
theorem stickyFlagsStay : Obligations.StickyFlagsStay := by
  intro s t h hn
  have hnr : ¬s.resetsNext := fun hr => hn (.inl hr)
  suffices hst : s.Sticky t from ⟨hst.err, hst.merr, hst.herr⟩
  cases step_does h with
  | executes w _ _ hex => exact hex.sticky
  | serves a rest ans u ht hserve =>
    obtain ⟨err, merr, herr⟩ := hserve.sticky (State.noClear_of_turn hn ht) (State.noReset_of_turn hnr ht)
    exact ⟨err, merr, herr⟩
  | hardReset rest ht => exact absurd (State.resetsNext_of_turn ht) hnr
  | idle => exact ⟨fun _ => id, id, id⟩

/-- Settles O53: no outcome of a step writes the store but a hard reset, which builds it from its own table. -/
theorem constantStoreNeverChanges : Obligations.ConstantStoreNeverChanges := by
  intro s t hs h
  cases step_does h with
  | executes w _ _ hex => exact ⟨hex.keeps.1, hex.keeps.2.1⟩
  | serves a rest ans u _ hserve => exact hserve.keeps_rom
  | hardReset => exact ⟨ConstStore.ofBuild_qtab hs.rom, rfl⟩
  | idle => exact ⟨rfl, rfl⟩

/-- Settles O54: the only outcomes of a step that write a mask are MKMASK's and the resets, and only the resets make a
register invalid. -/
theorem onlyMkmaskAndResetWriteMasks : Obligations.OnlyMkmaskAndResetWriteMasks := by
  intro s t h hn
  cases step_does h with
  | executes w _ ht hex =>
    obtain ⟨v, masks⟩ := hex.keepsValid
    refine ⟨fun j hj => ?_, v, masks⟩
    obtain ⟨pol, k, hd⟩ := hex.mask_changed hj
    exact ⟨w, pol, k, ht, hd⟩
  | serves a rest ans u ht hserve =>
    have hr := State.noReset_of_turn hn ht
    obtain ⟨v, masks⟩ := hserve.keepsValid hr
    have hmasks : u.masks = s.masks := hserve.keeps_masks hr
    exact ⟨fun j hj => absurd (congrArg (·[j]) hmasks) hj, v, masks⟩
  | hardReset rest ht => exact absurd (State.resetsNext_of_turn ht) hn
  | idle => exact ⟨fun j hj => absurd rfl hj, fun _ => id, fun _ => id⟩

end Sys2Proof

/-! PROOFS. Reset, the constant store, and the registers of the window: the statements O12, O36, O37, O42, O43, O46 and
O51. -/

namespace Sys2Proof.Machine

/-! Reset (10_state.md R81) -/

/-- The reset state and the result of either reset agree on every piece of engine state but the constant store and the
tie rule. -/
theorem eq_reset_with {s t : State} (h : t = State.reset ∨ t = s.hardReset ∨ t = s.softReset) :
    ∃ rom ties script answers issued, t = { State.reset with rom, ties, script, answers, issued } := by
  rcases h with rfl | rfl | rfl
  · exact ⟨_, _, _, _, _, rfl⟩
  · exact ⟨_, s.ties, s.script, s.answers, s.issued, rfl⟩
  · exact ⟨s.rom, s.ties, s.script, s.answers, s.issued, rfl⟩

theorem statusWord_reset : State.reset.statusWord = 0x00000000#32 := by decide

theorem step_of_resetInput {s : State} {rest : List HostEvent} (hs : s.script = .hardReset :: rest)
    (hp : s.pend = none ∨ ∃ p, s.pend = some p ∧ p.wait ≠ 0) :
    step s = .next { s.hardReset with script := rest } := by
  have hturn : s.turn = .host .hardReset rest := by
    rcases hp with hp | ⟨p, hp, hw⟩
    · simp [State.turn, hs, hp]
    · simp [State.turn, hs, hp, hw, HostEvent.held]
  rw [step, hturn]
  rfl

/-- Every entry of the default table is a legal one (10_state.md R57, R58). -/
theorem qtabDefault_legal : qtabLegal qtabDefault := by
  have hrange : ∀ k ∈ qtabDefaultNat, 1 ≤ k ∧ k ≤ 65535 := by decide
  refine ⟨rfl, fun x hx => ?_⟩
  obtain ⟨k, hk, rfl⟩ := List.mem_map.1 hx
  exact ⟨k, (hrange k hk).1, (hrange k hk).2, rfl⟩

theorem State.resetOf_inv {q : List F64} (h : qtabLegal q) (ties : RoundTies) : (State.resetOf q ties).Inv :=
  .of_idle regsWf_replicate (ConstStore.ofBuild_wf h) rfl nofun

/-- A basis command of a legal order commits its matrix (41_basis.md R190). -/
theorem finish_needOrder (s : State) (vd : Fin 8) (m : Matrix) {top n : Nat} (h1 : 1 ≤ n) (h2 : n ≤ top) :
    s.finish vd (do needOrder top n; return m) = .next (s.committed vd m) := by
  rw [needOrder_ok (u := ()) |>.2 ⟨h1, h2⟩]; rfl

end Sys2Proof.Machine

namespace Sys2Proof

open Machine

/-- Settles O12: the invariant gives the stored values, and the basis commands deliver the same NUM matrices. -/
theorem orderEightBasesAreTheConstants : Obligations.OrderEightBasesAreTheConstants := by
  intro s vd hs
  obtain ⟨h2, h3, ho, hoH, -⟩ := hs.rom
  have hmax : 8 ≤ orderMax := by decide
  have h3' : s.rom.c8III = numInv 8 s.rom.c8II := by rw [h2, h3]; rfl
  refine ⟨h2, h3', ho, ?_, ?_, ?_, ?_, fun k l hk hl => ?_⟩
  · rw [h2]; exact finish_needOrder s vd _ (by decide) hmax
  · rw [h3]; exact finish_needOrder s vd _ (by decide) hmax
  · rw [ho]; exact finish_needOrder s vd _ (by decide) hmax
  · rw [hoH]; exact conjTranspose_length 8 _
  · rw [ho, hoH]; exact (exactTransposes.2 8 k l omega8Value (numOmega_length 8) hk hl).2

/-- Settles O36: the three reset states are State.reset but for the store and what lies outside the engine. -/
theorem resetValues : Obligations.ResetValues := by
  refine ⟨fun s t h => ?_, ?_, rfl, fun _ => rfl, fun _ => ⟨rfl, rfl, rfl⟩, fun s rest => step_of_resetInput⟩
  · obtain ⟨rom, ties, script, answers, issued, rfl⟩ := eq_reset_with h
    exact ⟨fun r => Vector.getElem_replicate r.isLt, fun j => Vector.getElem_replicate j.isLt,
      rfl, rfl, rfl, rfl, rfl, rfl, statusWord_reset, rfl, rfl, rfl, rfl, rfl⟩
  · rintro s t (rfl | rfl) <;> exact ⟨rfl, rfl, rfl, rfl⟩

/-- Settles O37: a machine right after reset has no valid register and a constant store built from its table. -/
theorem invariantAtReset : Obligations.InvariantAtReset :=
  ⟨State.resetOf_inv qtabDefault_legal _, fun _ ties hq => State.resetOf_inv hq ties⟩

end Sys2Proof

namespace Sys2Proof.Machine

/-! The words of the window as read -/

section
variable (s : State)

/-- Bits 4:0 of STATUS (10_state.md R61). -/
theorem State.statusWord_flags :
    s.statusWord.getLsbD 0 = s.pend.isSome ∧ s.statusWord.getLsbD 1 = s.done ∧
    s.statusWord.getLsbD 2 = s.err.isSome ∧ s.statusWord.getLsbD 3 = s.merr ∧ s.statusWord.getLsbD 4 = s.herr := by
  simp only [State.statusWord, BitVec.getLsbD_append]
  simp [State.busy]

/-- Bits 31:5 of STATUS (10_state.md R61, R67). -/
theorem State.statusWord_fields :
    s.statusWord.extractLsb' 5 3 = 0#3 ∧ s.statusWord.extractLsb' 8 8 = s.errcode ∧
    s.statusWord.extractLsb' 16 16 = 0#16 := by
  simp (disch := omega) only [State.statusWord, BitVec.extractLsb'_append_eq_of_le,
    BitVec.extractLsb'_append_eq_of_add_le]
  simp

/-- The fields of CONFIG (10_state.md R70). -/
theorem State.configWord_fields :
    s.configWord.extractLsb' 0 8 = 16#8 ∧ s.configWord.extractLsb' 8 4 = 8#4 ∧ s.configWord.extractLsb' 12 4 = 4#4 ∧
    s.configWord.getLsbD 16 = tiesBit s.ties ∧ s.configWord.getLsbD 17 = decide (s.rom.qtab = qtabDefault) ∧
    s.configWord.extractLsb' 18 14 = 0#14 := by
  unfold State.configWord
  generalize tiesBit s.ties = a, decide (s.rom.qtab = qtabDefault) = b
  revert a b
  decide

theorem tiesBit_eq_true {t : RoundTies} : tiesBit t = true ↔ t = .away := by cases t <;> decide

/-- The fields of DSHAPE when V[VSEL] is valid (10_state.md R74). -/
theorem State.dshapeWord_fields {m : Matrix} (h : s.v[s.vsel] = some m) :
    s.dshapeWord.extractLsb' 0 9 = BitVec.ofNat 9 m.rows ∧ s.dshapeWord.extractLsb' 9 7 = 0#7 ∧
    s.dshapeWord.extractLsb' 16 9 = BitVec.ofNat 9 m.cols ∧ s.dshapeWord.extractLsb' 25 5 = 0#5 ∧
    s.dshapeWord.getLsbD 30 = true ∧ s.dshapeWord.getLsbD 31 = m.elems.isCplx := by
  simp (disch := omega) only [State.dshapeWord, h, BitVec.extractLsb'_append_eq_of_le,
    BitVec.extractLsb'_append_eq_of_add_le, BitVec.getLsbD_append]
  simp

theorem State.dshapeWord_none (h : s.v[s.vsel] = none) : s.dshapeWord = 0#32 := by
  rw [State.dshapeWord, h]

/-- The valid bits of V (10_state.md R79). -/
theorem State.vvalidWord_bits :
    (∀ i : Fin 8, s.vvalidWord.getLsbD i = (s.v[i]).isSome) ∧ s.vvalidWord.extractLsb' 8 24 = 0#24 := by
  refine ⟨fun i => ?_, ?_⟩
  · rw [State.vvalidWord, BitVec.getLsbD_append, if_pos i.isLt, BitVec.getLsbD_ofFnLE, dif_pos i.isLt]
  · exact BitVec.extractLsb'_append_eq_left

/-- The valid bits of MK (10_state.md R79). -/
theorem State.mkvalidWord_bits :
    (∀ j : Fin 4, s.mkvalidWord.getLsbD j = (s.masks[j]).isSome) ∧ s.mkvalidWord.extractLsb' 4 28 = 0#28 := by
  refine ⟨fun j => ?_, ?_⟩
  · rw [State.mkvalidWord, BitVec.getLsbD_append, if_pos j.isLt, BitVec.getLsbD_ofFnLE, dif_pos j.isLt]
  · exact BitVec.extractLsb'_append_eq_left

theorem State.readMaskHalf_some {j : Fin 4} {x : BitVec 64} (h : s.masks[j] = some x) (half : BitVec 64 → Word) :
    s.readMaskHalf j half = (s, half x) := by rw [State.readMaskHalf, h]

theorem State.readMaskHalf_none {j : Fin 4} (h : s.masks[j] = none) (half : BitVec 64 → Word) :
    s.readMaskHalf j half = (s.setHerr, 0#32) := by rw [State.readMaskHalf, h]

end

/-- The fields of DSEL (10_state.md R73). -/
theorem dselWord_fields (k : Fin 8) :
    ((BitVec.ofNat 32 k).extractLsb' 0 3).toFin = k ∧ (BitVec.ofNat 32 k).extractLsb' 3 29 = 0#29 := by
  revert k
  decide

/-- The fields of DIDX (10_state.md R75). -/
theorem didxWord_fields (i : BitVec 16) :
    (i.setWidth 32).extractLsb' 0 16 = i ∧ (i.setWidth 32).extractLsb' 16 16 = 0#16 := by
  constructor
  · ext j hj
    simp [show j < 32 by omega, BitVec.getLsbD_eq_getElem hj]
  · ext j
    simp

/-- A step that changes VSEL is a DSEL write, and one that changes IDX a DIDX write, but for a reset (10_state.md R73,
R75). -/
theorem step_selection {s t : State} (h : step s = .next t) (hn : ¬s.resetsNext) :
    (t.vsel ≠ s.vsel → ∃ w rest, s.turn = .host (.access (writeAt 0x18 w)) rest) ∧
    (t.idx ≠ s.idx → ∃ w rest, s.turn = .host (.access (writeAt 0x20 w)) rest) := by
  cases step_does h with
  | executes w _ _ hex =>
    obtain ⟨-, -, -, hv, hi⟩ := hex.keeps
    exact ⟨absurd hv, absurd hi⟩
  | serves a rest ans u ht hserve =>
    obtain ⟨hv, hi⟩ := hserve.selection_changed (State.noReset_of_turn hn ht)
    refine ⟨fun h => ?_, fun h => ?_⟩
    · obtain ⟨w, rfl⟩ := hv h
      exact ⟨w, rest, ht⟩
    · obtain ⟨w, rfl⟩ := hi h
      exact ⟨w, rest, ht⟩
  | hardReset rest ht => exact absurd (State.resetsNext_of_turn ht) hn
  | idle => exact ⟨absurd rfl, absurd rfl⟩

/-- The offsets of the mask halves (10_state.md R60). -/
theorem winReg_maskHalves : ∀ j : Fin 4,
    winReg (BitVec.ofNat 8 (0x40 + 8 * j)) = .mkLo j ∧ winReg (BitVec.ofNat 8 (0x44 + 8 * j)) = .mkHi j ∧
    (BitVec.ofNat 8 (0x40 + 8 * j)).extractLsb' 0 2 = 0#2 ∧ (BitVec.ofNat 8 (0x44 + 8 * j)).extractLsb' 0 2 = 0#2 := by
  decide

/-- The reserved offsets (10_state.md R80). -/
theorem winReg_reserved : ∀ off : BitVec 8, off.toNat % 4 = 0 → off = 0x3C ∨ 0x60 ≤ off.toNat →
    winReg off = .reserved ∧ off.extractLsb' 0 2 = 0#2 := by
  decide

/-! DSHAPE writes (20_memory.md R111) -/

theorem State.writeDshape_illegal (s : State) {w : Word}
    (h : (w.extractLsb' 0 9).toNat = 0 ∨ (w.extractLsb' 16 9).toNat = 0 ∨
      256 < (w.extractLsb' 0 9).toNat * (w.extractLsb' 16 9).toNat) : s.writeDshape w = s.setHerr :=
  if_pos h

theorem State.writeDshape_legal (s : State) {w : Word} {r c : Nat} (hr : (w.extractLsb' 0 9).toNat = r)
    (hc : (w.extractLsb' 16 9).toNat = c) (h1 : 1 ≤ r) (h2 : 1 ≤ c) (h3 : r * c ≤ 256) :
    s.writeDshape w = s.writeV s.vsel (zeroMatrix r c (w.getLsbD 31)) := by
  subst hr hc
  have hlegal : ¬((w.extractLsb' 0 9).toNat = 0 ∨ (w.extractLsb' 16 9).toNat = 0 ∨
      256 < (w.extractLsb' 0 9).toNat * (w.extractLsb' 16 9).toNat) := by omega
  exact (if_neg hlegal).trans (by rw [BitVec.msb_eq_getLsbD_last])

/-- A legal shape fits the fields of DSHAPE (10_state.md R44, R74). -/
theorem Matrix.shape_lt {m : Matrix} (h : m.wf) : m.rows < 2 ^ 9 ∧ m.cols < 2 ^ 9 := by
  obtain ⟨h1, h2, h3, -⟩ := h
  have hcap : m.rows * m.cols ≤ 256 := h3
  have hr := Nat.le_mul_of_pos_right m.rows h2
  have hc := Nat.le_mul_of_pos_left m.cols h1
  omega

end Sys2Proof.Machine

namespace Sys2Proof

open Machine

/-- Settles O42: the STATUS word field by field, and the two reads. -/
theorem statusWordFields : Obligations.StatusWordFields := by
  intro s
  obtain ⟨hbusy, hdone, herr, hmerr, hherr⟩ := s.statusWord_flags
  obtain ⟨hzero, hcode, hhigh⟩ := s.statusWord_fields
  have herrcmd : s.serve (readAt 0x10) = (s, .data s.errcmd) := s.serve_readAt rfl
  refine ⟨hbusy, hdone, herr, hmerr, hherr, hzero, hhigh, fun h => ?_, fun e w h => ?_, s.serve_readAt rfl,
    fun h => ?_, fun e w h => ?_⟩
  · rw [hcode, State.errcode, h]
  · rw [hcode, State.errcode, h]
    cases e <;> rfl
  · rw [herrcmd, State.errcmd, h]
  · rw [herrcmd, State.errcmd, h]

/-- Settles O43: the three outcomes of a CTRL write, and the read. -/
theorem ctrlAccess : Obligations.CtrlAccess := by
  have hwrite (s : State) (w : Word) : s.serve (writeAt 0x14 w) = (s.writeCtrl w, .ack) := s.serve_writeAt w rfl
  refine ⟨fun s w h2 h1 => ?_, fun s w h2 h1 => ?_, fun s w h2 => ?_, fun s => ⟨rfl, rfl⟩, fun s => ?_⟩
  · rw [hwrite, State.writeCtrl, h1, h2]; rfl
  · rw [hwrite, State.writeCtrl, h1, h2]; rfl
  · obtain ⟨-, h⟩ | ⟨h, -⟩ | ⟨h, -⟩ := s.writeCtrl_cases w
    · rw [hwrite, h]
    · exact absurd h2 (ne_true_of_eq_false h)
    · exact absurd h2 (ne_true_of_eq_false h)
  · refine (s.serve_readAt (off := 0x14) rfl).trans (congrArg (fun x => (s, Answer.data x)) ?_)
    show s.ctrlWord = _
    rw [State.ctrlWord]
    cases s.irqEn <;> rfl

/-- Settles O46: the accesses to DSEL, DIDX and DSHAPE, and the frame of the selection over steps. -/
theorem dshapeAccess : Obligations.DshapeAccess := by
  have hwrite (s : State) (w : Word) : s.serve (writeAt 0x1C w) = (s.writeDshape w, .ack) := s.serve_writeAt w rfl
  have hread (s : State) : s.serve (readAt 0x1C) = (s, .data s.dshapeWord) := s.serve_readAt rfl
  refine ⟨fun s w => ⟨s.serve_writeAt w rfl, s.serve_writeAt w rfl, ⟨_, s.serve_readAt rfl, dselWord_fields s.vsel⟩,
    ⟨_, s.serve_readAt rfl, didxWord_fields s.idx⟩⟩, fun s t h => ?_, fun s t => step_selection, fun s w h => ?_,
    fun s w r c hr hc h1 h2 h3 => ?_, fun s h => ?_, fun s m hs hm => ?_⟩
  · obtain ⟨rom, ties, script, answers, issued, rfl⟩ := eq_reset_with h
    exact ⟨rfl, rfl⟩
  · rw [hwrite, s.writeDshape_illegal h]; rfl
  · rw [hwrite, s.writeDshape_legal hr hc h1 h2 h3]
    exact ⟨fun h => by rw [h]; rfl, fun h => by rw [h]; rfl⟩
  · rw [hread, s.dshapeWord_none h]
  · obtain ⟨hrows, hz, hcols, hz', hvalid, hkind⟩ := s.dshapeWord_fields hm
    obtain ⟨hlr, hlc⟩ := Matrix.shape_lt (hs.regs _ _ hm)
    refine ⟨_, hread s, ?_, hz, ?_, hz', hvalid, ?_⟩
    · rw [hrows, BitVec.toNat_ofNat, Nat.mod_eq_of_lt hlr]
    · rw [hcols, BitVec.toNat_ofNat, Nat.mod_eq_of_lt hlc]
    · rw [hkind]; cases m.elems <;> rfl

/-- Settles O51: the words of the read-only registers, and what their offsets do on a write. -/
theorem readOnlyRegisters : Obligations.ReadOnlyRegisters := by
  intro s w
  obtain ⟨hdmax, hnv, hnk, hties, hqstd, hhigh⟩ := s.configWord_fields
  refine ⟨s.serve_readAt rfl, ⟨s.configWord, s.serve_readAt rfl, hdmax, hnv, hnk, ?_, ?_, hhigh, fun he hq => ?_⟩,
    fun j => ?_, ⟨_, s.serve_readAt rfl, s.vvalidWord_bits⟩, ⟨_, s.serve_readAt rfl, s.mkvalidWord_bits⟩,
    fun off hoff => ?_, fun off h4 hres => ?_⟩
  · rw [hties, tiesBit_eq_true]
  · rw [hqstd, decide_eq_true_eq]
  · rw [State.configWord, he, hq, decide_eq_true rfl]; rfl
  · obtain ⟨hlo, hhi, halo, hahi⟩ := winReg_maskHalves j
    rw [s.serve_readAt halo, s.serve_readAt hahi, s.serve_writeAt w halo, s.serve_writeAt w hahi, hlo, hhi]
    refine ⟨fun m hm => ?_, fun hm => ?_, rfl, rfl⟩
    · simp only [State.readReg, s.readMaskHalf_some hm]; exact ⟨rfl, rfl⟩
    · simp only [State.readReg, s.readMaskHalf_none hm]; exact ⟨rfl, rfl⟩
  · simp only [List.mem_cons, List.not_mem_nil, or_false] at hoff
    rcases hoff with rfl | rfl | rfl | rfl <;> exact s.serve_writeAt w rfl
  · obtain ⟨hreg, hal⟩ := winReg_reserved off h4 hres
    rw [s.serve_readAt hal, s.serve_writeAt w hal, hreg]
    exact ⟨rfl, rfl⟩

end Sys2Proof

/-! PROOFS. The host's accesses (20_memory.md): the data port, the host access errors, repeated reads and the hold rule,
the statements O40, O47, O48, O49, O50 and O52. -/

namespace Sys2Proof.Machine

/-! The halves of a 64-bit quantity (20_memory.md R106) -/

theorem loHalf_append (hi lo : Word) : loHalf (hi ++ lo) = lo := BitVec.extractLsb'_append_eq_right

theorem hiHalf_append (hi lo : Word) : hiHalf (hi ++ lo) = hi := BitVec.extractLsb'_append_eq_left

/-! The parts of an element (10_state.md R47, 20_memory.md R112 to R115) -/

section
variable {zs : List C64} {i : Nat} {z : C64} {x : F64}

theorem Elems.setRe_cplx (h : zs[i]? = some z) : (Elems.cplx zs).setRe i x = .cplx (zs.set i ⟨x, z.im⟩) := by
  rw [Elems.setRe, List.modify_eq_set_getElem?, h]; rfl

theorem Elems.setIm_cplx (h : zs[i]? = some z) :
    (Elems.cplx zs).setIm i x = some (.cplx (zs.set i ⟨z.re, x⟩)) := by
  rw [Elems.setIm, List.modify_eq_set_getElem?, h]; rfl

theorem Elems.reAt_real {xs : List F64} (h : xs[i]? = some x) : (Elems.real xs).reAt i = x := by
  rw [Elems.reAt, List.getD_eq_getElem?_getD, h]; rfl

theorem Elems.reAt_cplx (h : zs[i]? = some z) : (Elems.cplx zs).reAt i = z.re := by
  rw [Elems.reAt, List.getD_eq_getElem?_getD, h]; rfl

theorem Elems.imAt_cplx (h : zs[i]? = some z) : (Elems.cplx zs).imAt i = z.im := by
  rw [Elems.imAt, List.getD_eq_getElem?_getD, h]; rfl

end

theorem getD_modify_self {zs : List C64} (f : C64 → C64) {i : Nat} (h : i < zs.length) :
    (zs.modify i f).getD i default = f (zs.getD i default) := by
  simp [List.getD_eq_getElem?_getD, h]

/-- A modification of element i does not show at index j through a projection that it keeps there. -/
theorem proj_getD_modify {β : Type} (g : C64 → β) {f : C64 → C64} {i j : Nat} (zs : List C64)
    (h : i = j → ∀ z, g (f z) = g z) : g ((zs.modify i f).getD j default) = g (zs.getD j default) := by
  simp only [List.getD_eq_getElem?_getD, List.getElem?_modify]
  split
  next hij => cases zs[j]? with
    | none => rfl
    | some z => exact h hij z
  next => cases zs[j]? <;> rfl

section
variable (e : Elems) {i j : Nat} (x : F64)

theorem Elems.setRe_isCplx : (e.setRe i x).isCplx = e.isCplx := by cases e <;> rfl

theorem Elems.reAt_setRe_self (h : i < e.length) : (e.setRe i x).reAt i = x := by
  cases e with
  | real xs =>
    have hi : i < xs.length := h
    simp [Elems.setRe, Elems.reAt, List.getD_eq_getElem?_getD, hi]
  | cplx zs => exact congrArg C64.re (getD_modify_self _ h)

theorem Elems.reAt_setRe_of_ne (h : j ≠ i) : (e.setRe i x).reAt j = e.reAt j := by
  cases e with
  | real xs => simp [Elems.setRe, Elems.reAt, List.getD_eq_getElem?_getD, List.getElem?_set_ne h.symm]
  | cplx zs => exact proj_getD_modify C64.re zs fun hij => absurd hij.symm h

/-- Writing a real part leaves every imaginary part (20_memory.md R112). -/
theorem Elems.imAt_setRe (j : Nat) : (e.setRe i x).imAt j = e.imAt j := by
  cases e with
  | real xs => rfl
  | cplx zs => exact proj_getD_modify C64.im zs fun _ _ => rfl

end

/-- What writing an imaginary part does to the elements of a CPLX register (20_memory.md R114). -/
theorem Elems.setIm_of_isCplx {e : Elems} (he : e.isCplx = true) {i : Nat} (hi : i < e.length) (x : F64) :
    ∃ e', e.setIm i x = some e' ∧ e'.isCplx = true ∧ e'.imAt i = x ∧
      ∀ j, e'.reAt j = e.reAt j ∧ (j ≠ i → e'.imAt j = e.imAt j) := by
  cases e with
  | real xs => cases he
  | cplx zs =>
    exact ⟨_, rfl, rfl, congrArg C64.im (getD_modify_self _ hi),
      fun j => ⟨proj_getD_modify C64.re zs fun _ _ => rfl,
        fun hj => proj_getD_modify C64.im zs fun hij => absurd hij.symm hj⟩⟩

theorem Elems.setIm_of_not_isCplx {e : Elems} (he : e.isCplx = false) (i : Nat) (x : F64) : e.setIm i x = none := by
  cases e with
  | real xs => rfl
  | cplx zs => cases he

/-! The data port (20_memory.md R112 to R117) -/

theorem State.portMatrix_eq_none {s : State} : s.portMatrix = none ↔ s.portFails := by
  rw [Option.eq_none_iff_forall_ne_some]
  simp only [ne_eq, State.portMatrix_some, State.portFails]
  cases h : s.v[s.vsel] <;> simp

/-- A write through the port leaves its register there for the port. -/
theorem State.portMatrix_writeV {s : State} {m : Matrix} (h : s.portMatrix = some m) (e : Elems) :
    (s.writeV s.vsel { m with elems := e }).portMatrix = some { m with elems := e } :=
  State.portMatrix_some.2 ⟨Vector.getElem_set_self .., (State.portMatrix_some.1 h).2⟩

section
variable {s : State} {m : Matrix}

theorem State.serve_writeDreLo (s : State) (w : Word) : s.serve (writeAt 0x24 w) = ({ s with wloRe := w }, .ack) :=
  s.serve_writeAt w rfl

theorem State.serve_writeDimLo (s : State) (w : Word) : s.serve (writeAt 0x2C w) = ({ s with wloIm := w }, .ack) :=
  s.serve_writeAt w rfl

theorem State.serve_writeDreHi (s : State) (w : Word) : s.serve (writeAt 0x28 w) = (s.writeDreHi w, .ack) :=
  s.serve_writeAt w rfl

theorem State.serve_writeDimHi (s : State) (w : Word) : s.serve (writeAt 0x30 w) = (s.writeDimHi w, .ack) :=
  s.serve_writeAt w rfl

theorem State.serve_readDreLo (s : State) : s.serve (readAt 0x24) = (s.readDreLo.1, .data s.readDreLo.2) :=
  s.serve_readAt rfl

theorem State.serve_readDimLo (s : State) : s.serve (readAt 0x2C) = (s.readDimLo.1, .data s.readDimLo.2) :=
  s.serve_readAt rfl

theorem State.serve_readDreHi (s : State) : s.serve (readAt 0x28) = (s, .data s.rhiRe) := s.serve_readAt rfl

theorem State.serve_readDimHi (s : State) : s.serve (readAt 0x30) = (s, .data s.rhiIm) := s.serve_readAt rfl

theorem State.serve_writeDreHi_some (h : s.portMatrix = some m) (w : Word) : s.serve (writeAt 0x28 w) =
    (s.writeV s.vsel { m with elems := m.elems.setRe s.idx.toNat (w ++ s.wloRe) }, .ack) := by
  rw [s.serve_writeDreHi, State.writeDreHi, h]

theorem State.serve_writeDimHi_some (h : s.portMatrix = some m) {w : Word} {e : Elems}
    (he : m.elems.setIm s.idx.toNat (w ++ s.wloIm) = some e) :
    s.serve (writeAt 0x30 w) = (s.writeV s.vsel { m with elems := e }, .ack) := by
  simp only [s.serve_writeDimHi, State.writeDimHi, h, he]

theorem State.readDreLo_some (h : s.portMatrix = some m) : s.readDreLo =
    ({ s with rhiRe := hiHalf (m.elems.reAt s.idx.toNat) }, loHalf (m.elems.reAt s.idx.toNat)) := by
  rw [State.readDreLo, h]

theorem State.readDimLo_some (h : s.portMatrix = some m) : s.readDimLo =
    ({ s with rhiIm := hiHalf (m.elems.imAt s.idx.toNat) }, loHalf (m.elems.imAt s.idx.toNat)) := by
  rw [State.readDimLo, h]

theorem State.readDreLo_none (h : s.portMatrix = none) :
    s.readDreLo = ({ s with rhiRe := 0#32, herr := true }, 0#32) := by rw [State.readDreLo, h]; rfl

theorem State.readDimLo_none (h : s.portMatrix = none) :
    s.readDimLo = ({ s with rhiIm := 0#32, herr := true }, 0#32) := by rw [State.readDimLo, h]; rfl

theorem State.serve_readDreLo_some (h : s.portMatrix = some m) {x : F64} (hx : m.elems.reAt s.idx.toNat = x) :
    s.serve (readAt 0x24) = ({ s with rhiRe := hiHalf x }, .data (loHalf x)) := by
  rw [s.serve_readDreLo, State.readDreLo_some h, hx]

theorem State.serve_readDimLo_some (h : s.portMatrix = some m) {x : F64} (hx : m.elems.imAt s.idx.toNat = x) :
    s.serve (readAt 0x2C) = ({ s with rhiIm := hiHalf x }, .data (loHalf x)) := by
  rw [s.serve_readDimLo, State.readDimLo_some h, hx]

/-- A write of a HI half without an element to write only sets HERR (20_memory.md R112, R114). -/
theorem State.serve_writeHi_of_portFails (h : s.portFails) (w : Word) :
    s.serve (writeAt 0x28 w) = ({ s with herr := true }, .ack) ∧
    s.serve (writeAt 0x30 w) = ({ s with herr := true }, .ack) := by
  rw [s.serve_writeDreHi, s.serve_writeDimHi, State.writeDreHi, State.writeDimHi, State.portMatrix_eq_none.2 h]
  exact ⟨rfl, rfl⟩

/-- A read of a LO half without an element to read (20_memory.md R113, R115). -/
theorem State.serve_readLo_of_portFails (h : s.portFails) :
    s.serve (readAt 0x24) = ({ s with rhiRe := 0#32, herr := true }, .data 0#32) ∧
    s.serve (readAt 0x2C) = ({ s with rhiIm := 0#32, herr := true }, .data 0#32) := by
  have hnone := State.portMatrix_eq_none.2 h
  rw [s.serve_readDreLo, s.serve_readDimLo, State.readDreLo_none hnone, State.readDimLo_none hnone]
  exact ⟨rfl, rfl⟩

/-- "A REAL register has no imaginary storage" (20_memory.md R114). -/
theorem State.serve_writeDimHi_real (hm : s.v[s.vsel] = some m) (he : m.elems.isCplx = false) (w : Word) :
    s.serve (writeAt 0x30 w) = ({ s with herr := true }, .ack) := by
  by_cases h : s.idx.toNat < m.rows * m.cols
  · simp only [s.serve_writeDimHi, State.writeDimHi, State.portMatrix_some.2 ⟨hm, h⟩, Elems.setIm_of_not_isCplx he]
    rfl
  · exact (State.serve_writeHi_of_portFails (.inr ⟨m, hm, Nat.le_of_not_lt h⟩) w).2

end

end Sys2Proof.Machine

namespace Sys2Proof

open Machine

/-- Settles O47: the four writes, by whether the port has an element and by the kind of its register. -/
theorem elementWrites : Obligations.ElementWrites := by
  intro s w
  refine ⟨s.serve_writeDreLo w, s.serve_writeDimLo w, fun h => State.serve_writeHi_of_portFails h w,
    fun r c xs hm => ⟨State.serve_writeDimHi_real hm rfl w, fun hi => ?_⟩, fun r c zs z hm hi hz => ⟨?_, ?_⟩⟩
  · exact State.serve_writeDreHi_some (State.portMatrix_some.2 ⟨hm, hi⟩) w
  · rw [State.serve_writeDreHi_some (State.portMatrix_some.2 ⟨hm, hi⟩), Elems.setRe_cplx hz]; rfl
  · exact State.serve_writeDimHi_some (State.portMatrix_some.2 ⟨hm, hi⟩) (Elems.setIm_cplx hz)

/-- Settles O48: the reads of the two LO halves, by whether the port has an element and by the kind of its register. -/
theorem elementReads : Obligations.ElementReads := by
  intro s
  refine ⟨s.serve_readDreHi, s.serve_readDimHi, State.serve_readLo_of_portFails,
    fun r c xs x hm hi hx => ?_, fun r c zs z hm hi hz => ?_⟩
  · have hport := State.portMatrix_some.2 ⟨hm, hi⟩
    exact ⟨State.serve_readDreLo_some hport (Elems.reAt_real hx),
      State.serve_readDimLo_some hport (x := 0#64) rfl⟩
  · have hport := State.portMatrix_some.2 ⟨hm, hi⟩
    exact ⟨State.serve_readDreLo_some hport (Elems.reAt_cplx hz),
      State.serve_readDimLo_some hport (Elems.imAt_cplx hz)⟩

/-- Settles O49: the write leaves an element part {hi, lo}, and the reads give its halves. -/
theorem elementRoundTrip : Obligations.ElementRoundTrip := by
  intro s m lo hi hs hm hidx
  obtain ⟨-, -, -, hlen⟩ := hs.regs _ _ hm
  have hlt : s.idx.toNat < m.elems.length := hlen ▸ hidx
  constructor
  · have hport : State.portMatrix { s with wloRe := lo } = some m := State.portMatrix_some.2 ⟨hm, hidx⟩
    have hread := State.serve_readDreLo_some (State.portMatrix_writeV hport _) (m.elems.reAt_setRe_self (hi ++ lo) hlt)
    rw [hiHalf_append, loHalf_append] at hread
    exact ⟨_, _, _, { m with elems := m.elems.setRe s.idx.toNat (hi ++ lo) }, s.serve_writeDreLo lo,
      State.serve_writeDreHi_some hport hi, hread, State.serve_readDreHi _, rfl, rfl, rfl, m.elems.setRe_isCplx _,
      fun i => ⟨m.elems.imAt_setRe _ i, m.elems.reAt_setRe_of_ne _⟩⟩
  · intro hcplx
    have hport : State.portMatrix { s with wloIm := lo } = some m := State.portMatrix_some.2 ⟨hm, hidx⟩
    obtain ⟨e, he, hkind, hpart, hrest⟩ := Elems.setIm_of_isCplx hcplx hlt (hi ++ lo)
    have hread := State.serve_readDimLo_some (State.portMatrix_writeV hport e) hpart
    rw [hiHalf_append, loHalf_append] at hread
    exact ⟨_, _, _, { m with elems := e }, s.serve_writeDimLo lo, State.serve_writeDimHi_some hport he, hread,
      State.serve_readDimHi _, rfl, rfl, rfl, hkind, hrest⟩

end Sys2Proof

namespace Sys2Proof.Machine

/-! Access errors and repeated reads (20_memory.md R103, R109, R117) -/

/-- The alignment of R102, on numbers. -/
theorem extractLsb'_two_eq_zero : ∀ off : BitVec 8, off.extractLsb' 0 2 = 0#2 ↔ off.toNat % 4 = 0 := by decide

theorem Access.not_defined {a : Access} (h : a.width ≠ 32 ∨ a.off.toNat % 4 ≠ 0) : a.defined = false := by
  rw [Access.defined, Bool.and_eq_false_iff, decide_eq_false_iff_not, decide_eq_false_iff_not, extractLsb'_two_eq_zero]
  exact h

/-- A second read finds what the first one found (20_memory.md R109). -/
theorem State.readReg_readReg (s : State) (r : WinReg) : (s.readReg r).1.readReg r = s.readReg r := by
  cases r with
  | dreLo =>
    change s.readDreLo.1.readDreLo = s.readDreLo
    cases h : s.portMatrix with
    | some m => rw [State.readDreLo_some h]; exact State.readDreLo_some h
    | none => rw [State.readDreLo_none h]; exact State.readDreLo_none h
  | dimLo =>
    change s.readDimLo.1.readDimLo = s.readDimLo
    cases h : s.portMatrix with
    | some m => rw [State.readDimLo_some h]; exact State.readDimLo_some h
    | none => rw [State.readDimLo_none h]; exact State.readDimLo_none h
  | mkLo j | mkHi j =>
    simp only [State.readReg]
    cases h : s.masks[j] with
    | some w => rw [s.readMaskHalf_some h, s.readMaskHalf_some h]
    | none => rw [s.readMaskHalf_none h]; exact s.setHerr.readMaskHalf_none h _
  | _ => rfl

end Sys2Proof.Machine

namespace Sys2Proof

open Machine

/-- Settles O50: each failing access by its register, and the outcomes of an access for the stickiness of HERR. -/
theorem hostAccessErrors : Obligations.HostAccessErrors := by
  refine ⟨fun s a h => s.serve_refused (Access.not_defined h), fun s w off hoff => ?_, fun s w h => ?_,
    fun s w h => ?_, fun s w m hm he => State.serve_writeDimHi_real hm he w, fun s j h => ?_, fun s a h hctrl => ?_⟩
  · simp only [List.mem_cons, List.not_mem_nil, or_false] at hoff
    rcases hoff with rfl | rfl | rfl | rfl | rfl | rfl | rfl | rfl | rfl | rfl | rfl | rfl | rfl | rfl <;>
      exact s.serve_writeAt w rfl
  · rw [s.serve_writeAt w rfl]
    exact congrArg (·, Answer.ack) (s.writeDshape_illegal h)
  · obtain ⟨hdre, hdim⟩ := State.serve_writeHi_of_portFails h w
    exact ⟨hdre, hdim, State.serve_readLo_of_portFails h⟩
  · obtain ⟨hlo, hhi, halo, hahi⟩ := winReg_maskHalves j
    rw [s.serve_readAt halo, s.serve_readAt hahi, hlo, hhi]
    simp only [State.readReg, s.readMaskHalf_none h]
    exact ⟨rfl, rfl⟩
  · exact ((s.serve_does a).sticky (fun w ha => absurd ha (hctrl w)) fun w ha => absurd ha (hctrl w)).herr h

/-- Settles O52: a refused read only sets HERR, and a read of a register does not change what it reads. -/
theorem readsAreIdempotent : Obligations.ReadsAreIdempotent := by
  intro s off
  cases hdef : (readAt off).defined with
  | false => rw [s.serve_refused hdef]; exact State.serve_refused _ hdef
  | true =>
    rw [s.serve_read hdef rfl, State.serve_read _ hdef rfl]
    exact congrArg (fun x => (x.1, Answer.data x.2)) (s.readReg_readReg (winReg off))

end Sys2Proof

namespace Sys2Proof.Machine

/-! The hold rule (20_memory.md R120) -/

/-- The aligned offsets of IDENT, CONFIG and STATUS (10_state.md R60). -/
theorem unheldRead_iff : ∀ off : BitVec 8,
    off.extractLsb' 0 2 = 0#2 ∧ (winReg off).unheldRead = true ↔ off = 0x00 ∨ off = 0x04 ∨ off = 0x0C := by
  decide

theorem Access.held_eq_false {a : Access} :
    a.held = false ↔ a.op = .read ∧ a.width = 32 ∧ (a.off = 0x00 ∨ a.off = 0x04 ∨ a.off = 0x0C) := by
  rw [← unheldRead_iff, Access.held]
  cases a.op with
  | read => simp [Access.defined, and_assoc]
  | write w => simp

/-- A read that proceeds changes no register (20_memory.md R120). -/
theorem State.serve_unheld (s : State) {a : Access} (h : a.held = false) :
    ∃ w, s.serve a = (s, .data w) ∧ (a.off = 0x00 → w = identWord) ∧ (a.off = 0x04 → w = s.configWord) ∧
      (a.off = 0x0C → w = s.statusWord) := by
  obtain ⟨off, width, op⟩ := a
  obtain ⟨hop, hwidth, hoff⟩ := Access.held_eq_false.1 h
  cases hop
  cases hwidth
  rcases hoff with rfl | rfl | rfl
  · exact ⟨identWord, s.serve_readAt rfl, fun _ => rfl, nofun, nofun⟩
  · exact ⟨s.configWord, s.serve_readAt rfl, nofun, fun _ => rfl, nofun⟩
  · exact ⟨s.statusWord, s.serve_readAt rfl, nofun, nofun, fun _ => rfl⟩

/-- The wait of a pending command does not show in STATUS (10_state.md R61, R62). -/
theorem State.served_statusWord (s : State) (rest : List HostEvent) : (s.served rest).statusWord = s.statusWord := by
  have hbusy : (s.served rest).busy = s.busy := Option.isSome_map ..
  rw [State.statusWord, hbusy]
  rfl

/-- The bus's answers are no engine state. -/
theorem Serves.keeps_answers {s t : State} {a : Access} (h : Serves s a t) : t.answers = s.answers := by
  cases h <;> rfl

/-- Executing a word completes and leaves the outside world's events and answers alone (40_control.md R171, R173). -/
theorem Executes.completes {s t : State} {w : Word} (h : Executes s w t) :
    t.pend = none ∧ t.script = s.script ∧ t.answers = s.answers := by
  cases h with
  | commit | mask | nothing => exact ⟨rfl, rfl, rfl⟩
  | raised e => simp

/-- No word stops the machine (60_exceptions.md R305). -/
theorem State.execute_next (s : State) (w : Word) : ∃ t, s.execute w = .next t := by
  cases s.execute_ends w with
  | illegal r _ h => exact ⟨_, h⟩
  | command i _ h =>
    rw [h]
    cases exec_ends i s with
    | matrix _ _ _ h => exact ⟨_, h⟩
    | mask _ _ _ h => exact ⟨_, h⟩
    | nothing _ h => exact ⟨_, h⟩
    | raised _ h => exact ⟨_, h⟩

section
variable {s : State} {p : Pending} {a : Access} {rest : List HostEvent}

theorem step_of_held (hp : s.pend = some p) (hs : s.script = .access a :: rest) (ha : a.held = true) :
    step s = s.execute p.word := by
  simp [step, State.turn, hp, hs, HostEvent.held, ha]

/-- A step that is the host's serves the access in the state that has one event and one wait less. -/
theorem step_of_access (ht : s.turn = .host (.access a) rest) :
    step s = .next { ((s.served rest).serve a).1 with answers := ((s.served rest).serve a).2 :: s.answers } := by
  have hanswers : ((s.served rest).serve a).1.answers = s.answers := ((s.served rest).serve_does a).keeps_answers
  rw [step, ht, ← hanswers]
  rfl

theorem turn_of_unheld (hp : s.pend = some p) (hs : s.script = .access a :: rest) (ha : a.held = false)
    (hw : p.wait ≠ 0) : s.turn = .host (.access a) rest := by
  simp [State.turn, hp, hs, HostEvent.held, ha, hw]

theorem turn_of_idle (hp : s.pend = none) (hs : s.script = .access a :: rest) : s.turn = .host (.access a) rest := by
  simp [State.turn, hp, hs]

theorem State.served_idle (hp : s.pend = none) : s.served rest = { s with script := rest } := by
  simp [State.served, State.tick, hp]

end

end Sys2Proof.Machine

namespace Sys2Proof

open Machine

/-- Settles O40: the engine's step while the access is held, the host's step while it is not. -/
theorem holdRule : Obligations.HoldRule := by
  refine ⟨fun a => Access.held_eq_false, fun s p a rest hp hs ha => ?_, fun s p a rest hp hs ha hw => ?_,
    fun s a rest hp hs => ?_⟩
  · obtain ⟨t, ht⟩ := s.execute_next p.word
    have hstep := step_of_held hp hs ha
    obtain ⟨hpend, hscript, hanswers⟩ := (State.execute_does ht).completes
    exact ⟨t, hstep, hstep.trans ht, hpend, hscript.trans hs, hanswers⟩
  · obtain ⟨w, hserve, hident, hconfig, hstatus⟩ := (s.served rest).serve_unheld ha
    have hpend : (s.served rest).pend = some { p with wait := p.wait - 1 } := by simp [State.served, hp]
    refine ⟨w, ?_, hident, hconfig, fun h => ?_⟩
    · rw [step_of_access (turn_of_unheld hp hs ha hw), hserve, ← hpend]; rfl
    · obtain ⟨hbusy, -⟩ := s.statusWord_flags
      have hword : w = s.statusWord := (hstatus h).trans (s.served_statusWord rest)
      exact ⟨hword, by rw [hword, hbusy, hp]; rfl⟩
  · rw [step_of_access (turn_of_idle hp hs), State.served_idle hp]

end Sys2Proof

/-! PROOFS. The decoder and the encoder (30_encoding.md): a word is the packing of its fields, the must-be-zero mask of a
format leaves exactly the fields of the format, and decode and encode are inverse on well-formed commands. -/

namespace Sys2Proof

/-! The fields of a word (30_encoding.md R141) -/

/-- A field of a word, as a number. -/
theorem extractLsb'_toNat_div (w : Word) (start len : Nat) :
    (w.extractLsb' start len).toNat = w.toNat / 2 ^ start % 2 ^ len := by
  rw [BitVec.extractLsb'_toNat, Nat.shiftRight_eq_div_pow]

/-- Appending bit vectors, as numbers. -/
theorem append_toNat {m n : Nat} (x : BitVec m) (y : BitVec n) : (x ++ y).toNat = x.toNat * 2 ^ n + y.toNat := by
  rw [BitVec.toNat_append, ← Nat.shiftLeft_add_eq_or_of_lt y.isLt, Nat.shiftLeft_eq]

section
variable (pol : BitVec 2) (k imm : Nat) (mk : Fin 4) (vs vd : Fin 8) (op : BitVec 8)

/-- The value of a packed word, field by field; the field lemmas below are arithmetic on it. -/
theorem pack_toNat : (pack pol k imm mk vs vd op).toNat =
    2 ^ 28 * pol.toNat + 2 ^ 21 * (k % 128) + 2 ^ 16 * (imm % 32) + 2 ^ 14 * mk +
      2 ^ 11 * vs + 2 ^ 8 * vd + op.toNat := by
  simp only [pack, append_toNat, BitVec.toNat_ofNat]
  omega

@[simp] theorem opField_pack : opField (pack pol k imm mk vs vd op) = op :=
  BitVec.eq_of_toNat_eq (by rw [opField, extractLsb'_toNat_div, pack_toNat]; omega)

@[simp] theorem vdField_pack : vdField (pack pol k imm mk vs vd op) = vd :=
  Fin.ext (by rw [vdField, BitVec.val_toFin, extractLsb'_toNat_div, pack_toNat]; omega)

@[simp] theorem vsField_pack : vsField (pack pol k imm mk vs vd op) = vs :=
  Fin.ext (by rw [vsField, BitVec.val_toFin, extractLsb'_toNat_div, pack_toNat]; omega)

@[simp] theorem mkField_pack : mkField (pack pol k imm mk vs vd op) = mk :=
  Fin.ext (by rw [mkField, BitVec.val_toFin, extractLsb'_toNat_div, pack_toNat]; omega)

@[simp] theorem immField_pack : immField (pack pol k imm mk vs vd op) = imm % 32 := by
  rw [immField, extractLsb'_toNat_div, pack_toNat]; omega

@[simp] theorem kField_pack : kField (pack pol k imm mk vs vd op) = k % 128 := by
  rw [kField, extractLsb'_toNat_div, pack_toNat]; omega

@[simp] theorem polField_pack : polField (pack pol k imm mk vs vd op) = pol :=
  BitVec.eq_of_toNat_eq (by rw [polField, extractLsb'_toNat_div, pack_toNat]; omega)

end

/-- A word whose two top bits are zero is the packing of its fields. -/
theorem pack_fields {w : Word} (htop : w.extractLsb' 30 2 = 0#2) :
    pack (polField w) (kField w) (immField w) (mkField w) (vsField w) (vdField w) (opField w) = w := by
  have h : w.toNat / 2 ^ 30 % 2 ^ 2 = 0 := by rw [← extractLsb'_toNat_div, htop]; rfl
  apply BitVec.eq_of_toNat_eq
  simp only [pack_toNat, polField, kField, immField, mkField, vsField, vdField, opField, BitVec.val_toFin,
    extractLsb'_toNat_div]
  omega

@[simp] theorem fitsImm5_immField (w : Word) : fitsImm5 (immField w) = true := decide_eq_true (w.extractLsb' 16 5).isLt

@[simp] theorem fitsK7_kField (w : Word) : fitsK7 (kField w) = true := decide_eq_true (w.extractLsb' 21 7).isLt

/-- POL names a policy exactly when it is the policy's code (30_encoding.md R147). -/
theorem policyOf_eq_some {b : BitVec 2} {p : Policy} : policyOf b = some p ↔ p.code = b := by
  cases p <;> revert b <;> decide

/-- POL = 3 is the only reserved value (30_encoding.md R147). -/
theorem policyOf_eq_none {b : BitVec 2} : policyOf b = none ↔ b = 3#2 := by
  revert b; decide

/-! Rows of the opcode map (30_encoding.md R142, R148) -/

/-- The must-be-zero mask of every format covers OP. -/
theorem Format.opField_mask (f : Format) : opField f.mask = BitVec.allOnes 8 := by
  cases f <;> decide

/-- An opcode alone, as a word. -/
theorem opField_setWidth (op : BitVec 8) : opField (op.setWidth 32) = op := by
  rw [opField, BitVec.extractLsb'_setWidth_of_le (by decide), BitVec.extractLsb'_eq_self]

/-- A word matches a row only with the row's opcode. -/
theorem opField_of_row {w : Word} {f : Format} {op : BitVec 8} (h : w &&& f.mask = op.setWidth 32) : opField w = op :=
  calc opField w = opField w &&& opField f.mask := by rw [f.opField_mask, BitVec.and_allOnes]
    _ = opField (w &&& f.mask) := BitVec.extractLsb'_and.symm
    _ = opField (op.setWidth 32) := by rw [h]
    _ = op := opField_setWidth op

/-- A field that a row's mask covers is zero in the words of the row (30_encoding.md R150). -/
theorem field_eq_zero {w m : Word} {op : BitVec 8} (h : w &&& m = op.setWidth 32) {start len : Nat}
    (hm : m.extractLsb' start len = BitVec.allOnes len) (hs : 8 ≤ start) : w.extractLsb' start len = 0#len :=
  calc w.extractLsb' start len = (w &&& m).extractLsb' start len := by
        rw [BitVec.extractLsb'_and, hm, BitVec.and_allOnes]
    _ = (op.setWidth 32).extractLsb' start len := by rw [h]
    _ = 0#len := by ext i; simp [show op.getLsbD (start + i) = false from op.getLsbD_of_ge _ (by omega)]

/-- The word of an opcode with the fields that a format has, taken from another word (30_encoding.md R142). -/
def Format.repack (f : Format) (w : Word) (op : BitVec 8) : Word :=
  match f with
  | .n => packN op
  | .b => packB (vdField w) (immField w) op
  | .u => packU (vdField w) (vsField w) op
  | .d => packD (vdField w) (vsField w) (immField w) op
  | .mm => packMM (mkField w) (polField w) (kField w) op
  | .ma => packMA (vdField w) (vsField w) (mkField w) op

/-- A word that matches the mask of a format is the packing of the format's fields. -/
theorem Format.repack_eq {f : Format} {w : Word} {op : BitVec 8} (h : w &&& f.mask = op.setWidth 32) :
    f.repack w op = w := by
  obtain rfl : opField w = op := opField_of_row h
  have htop : w.extractLsb' 30 2 = 0#2 := field_eq_zero h (by cases f <;> decide) (by decide)
  refine Eq.trans ?_ (pack_fields htop)
  have hpol (hm : f.mask.extractLsb' 28 2 = BitVec.allOnes 2) : polField w = 0 := field_eq_zero h hm (by decide)
  have hk (hm : f.mask.extractLsb' 21 7 = BitVec.allOnes 7) : kField w = 0 :=
    congrArg BitVec.toNat (field_eq_zero h hm (by decide))
  have himm (hm : f.mask.extractLsb' 16 5 = BitVec.allOnes 5) : immField w = 0 :=
    congrArg BitVec.toNat (field_eq_zero h hm (by decide))
  have hmk (hm : f.mask.extractLsb' 14 2 = BitVec.allOnes 2) : mkField w = 0 :=
    congrArg BitVec.toFin (field_eq_zero h hm (by decide))
  have hvs (hm : f.mask.extractLsb' 11 3 = BitVec.allOnes 3) : vsField w = 0 :=
    congrArg BitVec.toFin (field_eq_zero h hm (by decide))
  have hvd (hm : f.mask.extractLsb' 8 3 = BitVec.allOnes 3) : vdField w = 0 :=
    congrArg BitVec.toFin (field_eq_zero h hm (by decide))
  cases f with
  | n => rw [hpol rfl, hk rfl, himm rfl, hmk rfl, hvs rfl, hvd rfl]; rfl
  | b => rw [hpol rfl, hk rfl, hmk rfl, hvs rfl]; rfl
  | u => rw [hpol rfl, hk rfl, himm rfl, hmk rfl]; rfl
  | d => rw [hpol rfl, hk rfl, hmk rfl]; rfl
  | mm => rw [himm rfl, hvs rfl, hvd rfl]; rfl
  | ma => rw [hpol rfl, hk rfl, himm rfl]; rfl

/-! Decoding (30_encoding.md R151) -/

theorem formatOf_opcode (i : Instr) : formatOf i.opcode = some i.format := by
  cases i <;> rfl

theorem opField_encode (i : Instr) : opField (encode i) = i.opcode := by
  cases i <;> exact opField_pack ..

/-- The word of a well-formed command matches its row, format by format. -/
theorem encode_and_mask {i : Instr} (h : i.wellFormed = true) : encode i &&& i.format.mask = i.opcode.setWidth 32 := by
  cases i with
  | nop => exact Laws.RowMatch.nop h
  | mkc1 | mkc2 | mkc3 | mkc4 | mkomega => exact packB_row _ h _
  | dctk | idctk | dcto | idcto | vec2mat | mat2vec | dft | idft | dft8 | idft8 | quant | dequant =>
    exact packU_row _ _ _
  | center | recon | qenc | qdec => exact packD_row _ _ h _
  | mkmask => exact packMM_row _ _ h _
  | applymask => exact packMA_row _ _ _ _

/-- The three checks of the decoder: opcode, must-be-zero bits, POL. -/
theorem decode_eq_ok {w : Word} {i : Instr} : decode w = .ok i ↔
    ∃ f, formatOf (opField w) = some f ∧ w &&& f.mask = (opField w).setWidth 32 ∧ commandOf w = .ok i := by
  cases hf : formatOf (opField w) with
  | none => simp [decode, hf]
  | some f => by_cases hm : w &&& f.mask = (opField w).setWidth 32 <;> simp [decode, hf, hm]

/-- The fields of the word of a well-formed command are the command's operands. -/
theorem commandOf_encode {i : Instr} (h : i.wellFormed = true) : commandOf (encode i) = .ok i := by
  have hop : (opField (encode i)).toNat = i.opcode.toNat := congrArg BitVec.toNat (opField_encode i)
  rw [commandOf, hop]
  cases i with
  | nop => rfl
  | mkc1 | mkc2 | mkc3 | mkc4 | mkomega =>
    have hn := Nat.mod_eq_of_lt (of_decide_eq_true h)
    simp [Instr.opcode, encode, packB, hn]
  | dctk | idctk | dcto | idcto | vec2mat | mat2vec | dft | idft | dft8 | idft8 | quant | dequant =>
    simp [Instr.opcode, encode, packU]
  | center | recon | qenc | qdec =>
    have hd := Nat.mod_eq_of_lt (of_decide_eq_true h)
    simp [Instr.opcode, encode, packD, hd]
  | mkmask mk pol k =>
    have hk := Nat.mod_eq_of_lt (of_decide_eq_true h)
    have hpol : policyOf pol.code = some pol := policyOf_eq_some.2 rfl
    simp [Instr.opcode, encode, packMM, hpol, hk]
  | applymask => simp [Instr.opcode, encode, packMA]

theorem decode_encode {i : Instr} (h : i.wellFormed = true) : decode (encode i) = .ok i :=
  decode_eq_ok.2 ⟨i.format, by rw [opField_encode, formatOf_opcode], by rw [opField_encode, encode_and_mask h],
    commandOf_encode h⟩

/-- Settles O1: the word matches its row, and its fields are the command's operands. -/
theorem decodeOfEncode : Obligations.DecodeOfEncode := fun _ h => decode_encode h

/-- A command read from a word has the word's opcode, operands that fit, and an encoding made of the word's fields. -/
theorem commandOf_eq_ok {w : Word} {i : Instr} (h : commandOf w = .ok i) :
    opField w = i.opcode ∧ i.wellFormed = true ∧ encode i = i.format.repack w i.opcode := by
  unfold commandOf at h
  split at h
  case h_23 hop =>
    cases hp : policyOf (polField w) with
    | none => rw [hp] at h; cases h
    | some p =>
      rw [hp] at h
      cases h
      exact ⟨BitVec.eq_of_toNat_eq hop, fitsK7_kField w, by rw [encode, policyOf_eq_some.1 hp]; rfl⟩
  case h_25 => cases h
  all_goals
    rename_i hop
    cases h
    exact ⟨BitVec.eq_of_toNat_eq hop, by simp [Instr.wellFormed], rfl⟩

/-- Settles O2: a decoded command is packed from the fields of its word, and a word of its row is that packing. -/
theorem encodeOfDecode : Obligations.EncodeOfDecode := by
  intro w i h
  obtain ⟨f, hf, hrow, hc⟩ := decode_eq_ok.1 h
  obtain ⟨hop, hwf, henc⟩ := commandOf_eq_ok hc
  rw [hop, formatOf_opcode] at hf
  rw [hop] at hrow
  cases hf
  exact ⟨henc.trans (Format.repack_eq hrow), hwf⟩

/-! The legal words (30_encoding.md R149, R150) -/

/-- Fields give no command only for a reserved opcode or a reserved policy. -/
theorem commandOf_eq_error {w : Word} {r : DecodeReject} (h : commandOf w = .error r) :
    formatOf (opField w) = none ∨ opField w = 0x50 ∧ polField w = 3#2 := by
  unfold commandOf at h
  split at h
  case h_23 hop =>
    cases hp : policyOf (polField w) with
    | none => exact .inr ⟨BitVec.eq_of_toNat_eq hop, policyOf_eq_none.1 hp⟩
    | some p => rw [hp] at h; cases h
  case h_25 => exact .inl (by simp [formatOf, *])
  all_goals cases h

/-- The words that decode: a mapped opcode, zero must-be-zero bits, and no MKMASK with POL = 3. -/
theorem exists_decode_iff {w : Word} : (∃ i, decode w = .ok i) ↔
    ∃ f, formatOf (opField w) = some f ∧ w &&& f.mask = (opField w).setWidth 32 ∧
      ¬(opField w = 0x50 ∧ polField w = 3#2) := by
  constructor
  · rintro ⟨i, h⟩
    obtain ⟨f, hf, hrow, hc⟩ := decode_eq_ok.1 h
    refine ⟨f, hf, hrow, fun ⟨hop, hpol⟩ => ?_⟩
    simp [commandOf, hop, policyOf_eq_none.2 hpol] at hc
  · rintro ⟨f, hf, hrow, hpol⟩
    cases hc : commandOf w with
    | ok i => exact ⟨i, decode_eq_ok.2 ⟨f, hf, hrow, hc⟩⟩
    | error r =>
      rcases commandOf_eq_error hc with hnone | h3
      · cases hf.symm.trans hnone
      · exact absurd h3 hpol

/-- The claim's table of rows is the decoder's format column with the masks of the formats. -/
theorem mem_opcodeRows {row : Word × Word} :
    row ∈ opcodeRows ↔ ∃ op f, formatOf op = some f ∧ (op.setWidth 32, f.mask) = row := by
  have table : opcodeRows = (List.finRange 256).filterMap fun n =>
      (formatOf (.ofFin n)).map fun f => ((BitVec.ofFin n).setWidth 32, f.mask) := by decide +kernel
  simp only [table, List.mem_filterMap, List.mem_finRange, true_and, Option.map_eq_some_iff]
  exact ⟨fun ⟨n, f, h⟩ => ⟨.ofFin n, f, h⟩, fun ⟨op, f, h⟩ => ⟨op.toFin, f, h⟩⟩

/-- A word is a command exactly when it matches a row and is no MKMASK with POL = 3. -/
theorem exists_decode_iff_row {w : Word} : (∃ i, decode w = .ok i) ↔
    ∃ row ∈ opcodeRows, w &&& row.2 = row.1 ∧ ¬(row.1 = 0x50#32 ∧ polField w = 3#2) := by
  rw [exists_decode_iff]
  constructor
  · rintro ⟨f, hf, hrow, hpol⟩
    refine ⟨_, mem_opcodeRows.2 ⟨opField w, f, hf, rfl⟩, hrow, fun ⟨hop, h3⟩ => hpol ⟨?_, h3⟩⟩
    exact (opField_setWidth _).symm.trans (congrArg opField hop)
  · rintro ⟨row, hmem, hrow, hpol⟩
    obtain ⟨op, f, hf, rfl⟩ := mem_opcodeRows.1 hmem
    obtain rfl : opField w = op := opField_of_row hrow
    exact ⟨f, hf, hrow, fun ⟨hop, h3⟩ => hpol ⟨by rw [hop]; rfl, h3⟩⟩

/-- Settles O3: the rows are the decoder's formats, and the execute step of any other word raises E_ILLEGAL. -/
theorem illegalWords : Obligations.IllegalWords := by
  refine ⟨fun w => exists_decode_iff_row, fun s p _ hno => ?_⟩
  cases s.execute_ends p.word with
  | command i hd _ => exact absurd ⟨i, hd⟩ hno
  | illegal r _ he => rw [he, Machine.State.failed_eq_raise]

/-- Settles O4: the decoder run on each word. -/
theorem sampleWordsDecode : Obligations.SampleWordsDecode := by
  unfold Obligations.SampleWordsDecode
  decide

end Sys2Proof

/-! PROOFS. The words that MKMASK writes (45_mask.md R281, R282): which cells they keep, and how many. -/

namespace Sys2Proof.Machine

/-- The claim's region, on row and column, is the model's, on the raster index (45_mask.md R281). -/
theorem policy_region_eq_inRegion (pol : Policy) (i : Nat) : pol.region (i / 8) (i % 8) = inRegion pol i := by
  cases pol <;> simp [Policy.region, inRegion]

/-- In the numbers of a range that satisfy p, a number comes after the smaller ones. -/
theorem idxOf_filter_range {p : Nat → Bool} {n i : Nat} (hi : i < n) (hp : p i = true) :
    ((List.range n).filter p).idxOf i = ((List.range i).filter p).length := by
  obtain ⟨m, rfl⟩ := Nat.exists_eq_add_of_lt hi
  rw [Nat.add_assoc, List.range_add, List.range_succ_eq_map, List.filter_append,
    List.idxOf_append_of_notMem (by simp [List.mem_filter])]
  simp [hp]

/-- The first k numbers of a range that satisfy p: those with fewer than k others before them. -/
theorem mem_take_filter_range {p : Nat → Bool} {n k i : Nat} :
    i ∈ ((List.range n).filter p).take k ↔ i < n ∧ p i = true ∧ ((List.range i).filter p).length < k := by
  by_cases h : i < n ∧ p i = true
  · obtain ⟨hi, hp⟩ := h
    have hmem : i ∈ (List.range n).filter p := List.mem_filter.2 ⟨List.mem_range.2 hi, hp⟩
    rw [List.mem_take_iff_idxOf_lt hmem, idxOf_filter_range hi hp]
    simp [hi, hp]
  · refine ⟨fun hmem => ?_, fun ⟨hi, hp, _⟩ => absurd ⟨hi, hp⟩ h⟩
    obtain ⟨hi, hp⟩ := List.mem_filter.1 (List.mem_of_mem_take hmem)
    exact absurd ⟨List.mem_range.1 hi, hp⟩ h

/-- The clamp at the region's size changes nothing (45_mask.md R282). -/
theorem keptCells_eq_take (pol : Policy) (k : Nat) : keptCells pol k = (region pol).take k := by
  rw [keptCells, clamp, ← region_length, ← List.take_eq_take_min]

/-- The kept cells by their place in the region (45_mask.md R282). -/
theorem mem_keptCells {pol : Policy} {k i : Nat} : i ∈ keptCells pol k ↔
    i < 64 ∧ inRegion pol i = true ∧ ((List.range i).filter (inRegion pol)).length < k := by
  rw [keptCells_eq_take, region, mem_take_filter_range]

/-- Bit i of a mask word is 0 exactly when cell i is kept. -/
theorem maskWord_bit_eq_false {pol : Policy} {k i : Nat} (h : i < 64) :
    (maskWord pol k).getLsbD i = false ↔ i ∈ keptCells pol k := by
  simp [maskWord_bit pol k h]

/-- The zero bits of a mask word are the kept cells, in raster order. -/
theorem maskWord_zeroBits (pol : Policy) (k : Nat) :
    ((List.range 64).filter fun i => !(maskWord pol k).getLsbD i).Perm (keptCells pol k) := by
  refine (List.perm_ext_iff_of_nodup (List.nodup_range.filter _)
    ((region_nodup pol).sublist (List.take_sublist ..))).2 fun i => ?_
  rw [List.mem_filter, List.mem_range, Bool.not_eq_true']
  exact ⟨fun ⟨hi, hbit⟩ => (maskWord_bit_eq_false hi).1 hbit,
    fun h => have hi := (mem_keptCells.1 h).1; ⟨hi, (maskWord_bit_eq_false hi).2 h⟩⟩

end Sys2Proof.Machine

namespace Sys2Proof

open Machine

/-- Settles O33: a mask word's zero bits are the kept cells, which are the first k of the region. -/
theorem mkmaskKeepsTheFirstCells : Obligations.MkmaskKeepsTheFirstCells := by
  intro s j pol k
  have hregion : (fun a => pol.region (a / 8) (a % 8)) = inRegion pol := funext (policy_region_eq_inRegion pol)
  refine ⟨maskWord pol k, rfl, fun i hi => ?_, ?_⟩
  · rw [hregion, maskWord_bit_eq_false hi, mem_keptCells, policy_region_eq_inRegion]
    exact and_iff_right hi
  · rw [(maskWord_zeroBits pol k).length_eq, keptCells_length]
    cases pol <;> rfl

end Sys2Proof

/-! PROOFS. The command cycle (40_control.md): how an issued command comes to its execute step, what a command may read
and write, and that a pending command completes. -/

namespace Sys2Proof.Machine

/-! The step of each turn (40_control.md R170, R171) -/

section
variable {s : State}

/-- The engine moves unless an un-held event gets ahead of it (40_control.md R171, log 2). -/
theorem step_of_engine {p : Pending} (hp : s.pend = some p)
    (hs : s.script = [] ∨ p.wait = 0 ∨ ∃ ev rest, s.script = ev :: rest ∧ ev.held = true) :
    step s = s.execute p.word := by
  have hturn : s.turn = .engine p.word := by
    rcases hs with hs | hw | ⟨ev, rest, hs, hev⟩
    · simp [State.turn, hp, hs]
    · cases hs : s.script <;> simp [State.turn, hp, hs, hw]
    · simp [State.turn, hp, hs, hev]
  rw [step, hturn]

theorem step_of_idle (hp : s.pend = none) (hs : s.script = []) : step s = .next s := by
  simp [step, State.turn, hp, hs]

/-- A CMD write issues its word with the latency drawn for it (40_control.md R170, log 2). -/
theorem step_of_cmdWrite {w : Word} {rest : List HostEvent} (hp : s.pend = none)
    (hs : s.script = .access (writeAt 0x08 w) :: rest) :
    step s = .next { s with
      pend := some ⟨w, Config.latency s.issued⟩, lastcmd := w, done := false, script := rest,
      answers := .ack :: s.answers, issued := s.issued + 1 } := by
  rw [step_of_access (turn_of_idle hp hs), State.served_idle hp, State.serve_writeAt _ w rfl]
  rfl

theorem State.execute_of_decode (s : State) {w : Word} {i : Instr} (h : decode w = .ok i) :
    s.execute w = exec i s := by rw [State.execute, h]

theorem State.withFetchWord_eq_issue (s : State) (w : Word) : s.withFetchWord 32 w.toNat = s.issue w 0 := by
  rw [State.withFetchWord, Nat.mod_eq_of_lt w.isLt, BitVec.ofNat_toNat, BitVec.setWidth_eq]

/-- A run goes on from the state its first step leads to. -/
theorem run_succ {t : State} (h : step s = .next t) (k : Nat) :
    Host.Core.run core (k + 1) s = Host.Core.run core k t := by
  have hcore : core.step s = .next t := h
  simp only [Host.Core.run, hcore]

/-- Every word completes when it is executed (40_control.md R173). -/
theorem Executes.done {t : State} {w : Word} (h : Executes s w t) : t.done = true := by
  cases h with
  | commit | mask | nothing => rfl
  | raised e => exact s.raise_done e

end

/-! What a command reads (40_control.md R174) -/

section
variable {s t : State} {vs : Fin 8}

theorem State.readV_congr (h : s.v[vs] = t.v[vs]) : s.readV vs = t.readV vs := by
  rw [State.readV, State.readV, h]

theorem State.readMask_congr {j : Fin 4} (h : s.masks[j] = t.masks[j]) : s.readMask j = t.readMask j := by
  rw [State.readMask, State.readMask, h]

theorem State.blockOperand_congr (h : s.v[vs] = t.v[vs]) : s.blockOperand vs = t.blockOperand vs := by
  rw [State.blockOperand, State.blockOperand, State.readV_congr h]

theorem State.depthOperand_congr (h : s.v[vs] = t.v[vs]) (d : Nat) : s.depthOperand vs d = t.depthOperand vs d := by
  rw [State.depthOperand, State.depthOperand, State.readV_congr h]

theorem State.maskOperand_congr (h : s.v[vs] = t.v[vs]) {j : Fin 4} (hj : s.masks[j] = t.masks[j]) :
    s.maskOperand vs j = t.maskOperand vs j := by
  rw [State.maskOperand, State.maskOperand, State.readV_congr h, State.readMask_congr hj]

theorem State.squareOperand_congr (h : s.v[vs] = t.v[vs]) : s.squareOperand vs = t.squareOperand vs := by
  rw [State.squareOperand, State.squareOperand, State.readV_congr h]

theorem State.dft8Operand_congr (h : s.v[vs] = t.v[vs]) : s.dft8Operand vs = t.dft8Operand vs := by
  rw [State.dft8Operand, State.dft8Operand, State.readV_congr h]

/-- The two states agree on all that a command may read: the constant store, the tie rule and its source registers. -/
structure State.AgreesFor (s t : State) (i : Instr) : Prop where
  rom : s.rom = t.rom
  ties : s.ties = t.ties
  v : ∀ r : Fin 8, i.srcV = some r → s.v[r] = t.v[r]
  masks : ∀ j : Fin 4, i.srcMask = some j → s.masks[j] = t.masks[j]

/-- A command with a destination in V comes to the same result or error in states that agree on what it may read. -/
theorem exec_eq_finish {i : Instr} {vd : Fin 8} (hd : i.destV = some vd) (h : s.AgreesFor t i) :
    ∃ r, exec i s = s.finish vd r ∧ exec i t = t.finish vd r := by
  obtain ⟨rom, ties, v, masks⟩ := h
  cases i with
  | nop | mkmask => cases hd
  | mkc1 | mkc2 | mkc3 | mkc4 | mkomega => cases hd; exact ⟨_, rfl, rfl⟩
  | dctk _ vs | idctk _ vs | dcto _ vs | idcto _ vs | dequant _ vs =>
    cases hd
    exact ⟨_, rfl, by rw [State.blockOperand_congr (v vs rfl), rom]; rfl⟩
  | quant _ vs =>
    cases hd
    exact ⟨_, rfl, by rw [State.blockOperand_congr (v vs rfl), rom, ties]; rfl⟩
  | vec2mat _ vs | mat2vec _ vs =>
    cases hd
    exact ⟨_, rfl, by rw [State.readV_congr (v vs rfl)]; rfl⟩
  | dft _ vs | idft _ vs =>
    cases hd
    exact ⟨_, rfl, by rw [State.squareOperand_congr (v vs rfl)]; rfl⟩
  | dft8 _ vs | idft8 _ vs =>
    cases hd
    exact ⟨_, rfl, by rw [State.dft8Operand_congr (v vs rfl), rom]; rfl⟩
  | center _ vs d =>
    cases hd
    exact ⟨_, rfl, by rw [State.depthOperand_congr (v vs rfl)]; rfl⟩
  | recon _ vs d | qenc _ vs d | qdec _ vs d =>
    cases hd
    exact ⟨_, rfl, by rw [State.depthOperand_congr (v vs rfl), rom, ties]; rfl⟩
  | applymask _ vs j =>
    cases hd
    exact ⟨_, rfl, by rw [State.maskOperand_congr (v vs rfl) (masks j rfl)]; rfl⟩

end

/-! The steps of a pending command (40_control.md R171, R179, 20_memory.md R120) -/

/-- The command p of s is executed within its latency, after steps that are host reads; or the reset input ends it. -/
def State.CompletesWithin (s : State) (p : Pending) : Prop :=
  ∃ k u ans, k ≤ p.wait ∧ Host.Core.run core k s = .next u ∧
    ((.hardReset ∉ s.script.take k ∧
        u = { s with script := s.script.drop k, answers := ans, pend := some ⟨p.word, p.wait - k⟩ } ∧
        ∃ t, step u = u.execute p.word ∧ step u = .next t ∧ t.pend = none ∧ t.done = true) ∨
      (.hardReset ∈ s.script.take k ∧
        u = { s.hardReset with script := s.script.drop k, answers := ans }))

section
variable {s : State} {p : Pending} {rest : List HostEvent}

theorem completesWithin_of_engine (hp : s.pend = some p)
    (hs : s.script = [] ∨ p.wait = 0 ∨ ∃ ev rest, s.script = ev :: rest ∧ ev.held = true) : s.CompletesWithin p := by
  obtain ⟨t, ht⟩ := s.execute_next p.word
  have hstep := step_of_engine hp hs
  have hexec := State.execute_does ht
  obtain ⟨hpend, -, -⟩ := hexec.completes
  have hself : s = { s with pend := some p } := by rw [← hp]
  exact ⟨0, s, s.answers, Nat.zero_le _, rfl,
    .inl ⟨List.not_mem_nil, hself, t, hstep, hstep.trans ht, hpend, hexec.done⟩⟩

theorem completesWithin_of_resetInput (hp : s.pend = some p) (hs : s.script = .hardReset :: rest) (hw : p.wait ≠ 0) :
    s.CompletesWithin p := by
  have hstep := step_of_resetInput hs (.inr ⟨p, hp, hw⟩)
  refine ⟨1, _, s.answers, Nat.pos_of_ne_zero hw, run_succ hstep 0, .inr ?_⟩
  rw [hs]
  exact ⟨List.mem_cons_self, rfl⟩

/-- A read that gets ahead leaves the command pending with one wait less. -/
theorem completesWithin_of_read {a : Access} {ans : List Answer} (hs : s.script = .access a :: rest) (hw : p.wait ≠ 0)
    (hstep : step s = .next { s with
      script := rest, answers := ans, pend := some { p with wait := p.wait - 1 } })
    (h : State.CompletesWithin { s with script := rest, answers := ans, pend := some { p with wait := p.wait - 1 } }
      { p with wait := p.wait - 1 }) : s.CompletesWithin p := by
  obtain ⟨k, u, ans, hk, hrun, hend⟩ := h
  have hk' : k + 1 ≤ p.wait := Nat.add_le_of_le_sub (Nat.pos_of_ne_zero hw) hk
  have hreset : .hardReset ∈ s.script.take (k + 1) ↔ .hardReset ∈ rest.take k := by simp [hs]
  have hwait : p.wait - (k + 1) = p.wait - 1 - k := by omega
  refine ⟨k + 1, u, ans, hk', (run_succ hstep k).trans hrun, ?_⟩
  rw [hreset, hs, List.drop_succ_cons, hwait]
  exact hend

end

/-- By induction on the events to come: the engine moves, or the reset input or a read gets ahead of it. -/
theorem State.completesWithin {s : State} {p : Pending} (hp : s.pend = some p) : s.CompletesWithin p := by
  obtain ⟨-, -, hread, -⟩ := holdRule
  induction hs : s.script generalizing s p with
  | nil => exact completesWithin_of_engine hp (.inl hs)
  | cons ev rest ih =>
    by_cases hengine : p.wait = 0 ∨ ev.held = true
    · exact completesWithin_of_engine hp (.inr (hengine.imp_right fun hev => ⟨ev, rest, hs, hev⟩))
    · obtain ⟨hw, hev⟩ := not_or.1 hengine
      cases ev with
      | hardReset => exact completesWithin_of_resetInput hp hs hw
      | access a =>
        obtain ⟨w, hstep, -⟩ := hread s p a rest hp hs (Bool.eq_false_iff.2 hev) hw
        exact completesWithin_of_read hs hw hstep (ih rfl rfl)

end Sys2Proof.Machine

namespace Sys2Proof

open Machine

/-- Settles O6: each way a command can end writes its own destination and completes. -/
theorem everyCommandCompletes : Obligations.EveryCommandCompletes := by
  intro i s
  cases exec_ends i s with
  | matrix vd m hd h =>
    refine ⟨_, h, fun r hr => ?_, fun _ _ => rfl, rfl⟩
    have hne : vd ≠ r := fun heq => hr (heq ▸ hd)
    exact Vector.getElem_set_ne vd.isLt r.isLt (Fin.val_ne_of_ne hne)
  | mask j w hd h =>
    refine ⟨_, h, fun _ _ => rfl, fun l hl => ?_, rfl⟩
    have hne : j ≠ l := fun heq => hl (heq ▸ hd)
    exact Vector.getElem_set_ne j.isLt l.isLt (Fin.val_ne_of_ne hne)
  | nothing _ h => exact ⟨_, h, fun _ _ => rfl, fun _ _ => rfl, rfl⟩
  | raised e h =>
    rw [State.raise_eq] at h
    exact ⟨_, h, fun _ _ => rfl, fun _ _ => rfl, rfl⟩

/-- Settles O7: what a command commits or raises is computed from what it may read. -/
theorem commandsArePure : Obligations.CommandsArePure := by
  intro i s t rom ties v masks
  cases hd : i.destV with
  | some vd =>
    obtain ⟨r, hs, ht⟩ := exec_eq_finish hd ⟨rom, ties, v, masks⟩
    cases r with
    | ok m => exact .inl ⟨vd, m, rfl, hs, ht⟩
    | error e => exact .inr (.inr (.inr ⟨e, by rw [hs, s.finish_error, s.failed_eq_raise],
      by rw [ht, t.finish_error, t.failed_eq_raise]⟩))
  | none =>
    cases i with
    | nop => exact .inr (.inr (.inl ⟨rfl, rfl, rfl⟩))
    | mkmask j pol k => exact .inr (.inl ⟨j, maskWord pol k, rfl, rfl, rfl⟩)
    | _ => cases hd

/-- Settles O39: the obligation is State.completesWithin written out. -/
theorem pendingCommandCompletes : Obligations.PendingCommandCompletes := fun _ _ => State.completesWithin

/-- Settles O5: the engine's step decodes the pending word, and withFetchWord issues a word with no wait. -/
theorem stepRunsThePendingCommand : Obligations.StepRunsThePendingCommand := by
  refine ⟨fun s p i hp hd hs => ?_, fun s w i hd => ?_, fun s => step_of_idle⟩
  · rw [step_of_engine hp hs, s.execute_of_decode hd]
  · rw [s.withFetchWord_eq_issue w]
    exact ⟨rfl, (step_of_engine (p := ⟨w, 0⟩) rfl (.inr (.inl rfl))).trans (State.execute_of_decode _ hd)⟩

/-- Settles O41: the write is served at once, and a CMD read gives LASTCMD. -/
theorem cmdWriteIssues : Obligations.CmdWriteIssues :=
  ⟨fun s _ _ hp hs => ⟨Config.latency s.issued, step_of_cmdWrite hp hs⟩, fun s => s.serve_readAt rfl⟩

/-! NOP (40_control.md R177) -/

theorem Instr.opcode_eq_zero {i : Instr} : i.opcode = 0x00#8 ↔ i = .nop := by
  cases i <;> simp [Instr.opcode]

theorem encode_nop : encode .nop = 0#32 := by decide

theorem decode_eq_nop {w : Word} : decode w = .ok .nop ↔ w = 0#32 := by
  constructor
  · intro h
    obtain ⟨henc, -⟩ := encodeOfDecode w .nop h
    exact henc.symm.trans encode_nop
  · rintro rfl
    exact encode_nop ▸ decode_encode rfl

/-- A word with NOP's opcode and another bit set is no command. -/
theorem decode_error_of_opField_zero {w : Word} (hop : opField w = 0x00#8) (hw : w ≠ 0#32) :
    ∃ r, decode w = .error r := by
  cases hd : decode w with
  | error r => exact ⟨r, rfl⟩
  | ok i =>
    obtain ⟨henc, -⟩ := encodeOfDecode w i hd
    have hopcode : i.opcode = 0x00#8 := by rw [← opField_encode, henc, hop]
    rw [Instr.opcode_eq_zero.1 hopcode] at hd
    exact absurd (decode_eq_nop.1 hd) hw

/-- With nothing more to come a pending NOP completes (40_control.md R171, R177). -/
theorem step_of_pendingNop {s : State} {k : Nat} (hp : s.pend = some ⟨0#32, k⟩) (hs : s.script = []) :
    step s = .next s.complete :=
  (step_of_engine hp (.inl hs)).trans (s.execute_of_decode (decode_eq_nop.2 rfl))

/-- A CMD write of NOP and its execute step, whatever latency is drawn. -/
theorem run_nop {s : State} (hp : s.pend = none) (hs : s.script = [.access (writeAt 0x08 0#32)]) :
    Host.Core.run core 2 s = .next { s with
      pend := none, lastcmd := 0#32, done := true, script := [], answers := .ack :: s.answers,
      issued := s.issued + 1 } := by
  rw [run_succ (step_of_cmdWrite hp hs), run_succ (step_of_pendingNop rfl rfl)]
  rfl

/-- Settles O9: word 0 is NOP's encoding, any other word with its opcode fails, and the run is a CMD write and NOP. -/
theorem nopOnlyCompletes : Obligations.NopOnlyCompletes := by
  refine ⟨fun _ => decode_eq_nop, fun _ => rfl, fun w hw => ?_, fun s p hp hop hw => ?_, ?_⟩
  · exact or_iff_not_imp_left.2 fun hop => decode_error_of_opField_zero (not_not.1 hop) hw
  · obtain ⟨r, hr⟩ := decode_error_of_opField_zero hop hw
    obtain ⟨-, hillegal⟩ := illegalWords
    exact hillegal s p hp fun ⟨i, hi⟩ => nomatch hr.symm.trans hi
  · exact ⟨_, run_nop rfl rfl, by decide⟩

end Sys2Proof

/-! PROOFS. The basis commands (41_basis.md): which orders they take; and the exact Fourier matrix
(R198, R203), which is unitary up to its order, so that the exact DFT and its inverse undo each other. -/

namespace Sys2Proof.Machine

/-! Orders (41_basis.md R190) -/

/-- A basis command of an illegal order fails with E_ORDER. -/
theorem finish_needOrder_illegal (s : State) (vd : Fin 8) (m : Matrix) {top n : Nat} (h : n = 0 ∨ top < n) :
    s.finish vd (do needOrder top n; return m) = .next (s.failed .order) := by
  rw [needOrder_error (by omega), State.failed_eq_raise]; rfl

/-! The entries of the exact Fourier matrix (41_basis.md R198) -/

/-- The root of unity whose powers are the entries of the conjugate of Ω. -/
noncomputable def fourierRoot (n : ℕ) : ℂ := Complex.exp (2 * Real.pi * Complex.I / n)

theorem fourierRoot_ne_zero (n : ℕ) : fourierRoot n ≠ 0 := Complex.exp_ne_zero _

theorem exactOmega_eq_zpow (n k l : ℕ) : exactOmega n k l = fourierRoot n ^ (-(k * l : ℤ)) := by
  rw [exactOmega, fourierRoot, ← Complex.exp_int_mul]
  push_cast
  ring_nf

theorem exactConjT_exactOmega_eq_zpow (n k l : ℕ) : exactConjT (exactOmega n) k l = fourierRoot n ^ (k * l : ℤ) := by
  have hconj : (starRingEnd ℂ) (fourierRoot n) = (fourierRoot n)⁻¹ := by
    rw [fourierRoot, ← Complex.exp_conj, ← Complex.exp_neg]
    simp [neg_div, Complex.conj_ofNat]
  rw [exactConjT, exactOmega_eq_zpow, map_zpow₀, hconj, inv_zpow', neg_neg, mul_comm]

theorem exactOmega_symm (n k l : ℕ) : exactOmega n k l = exactOmega n l k := by
  rw [exactOmega_eq_zpow, exactOmega_eq_zpow, mul_comm]

/-- Two rows of Ω are orthogonal, and the square of the length of each is n (41_basis.md R203). -/
theorem sum_exactOmega_mul_exactConjT {n k l : ℕ} (hk : k < n) (hl : l < n) :
    ∑ a ∈ Finset.range n, exactOmega n k a * exactConjT (exactOmega n) a l = if k = l then (n : ℂ) else 0 := by
  have hterm : ∀ a : ℕ, exactOmega n k a * exactConjT (exactOmega n) a l = (fourierRoot n ^ (l - k : ℤ)) ^ a := by
    intro a
    rw [exactOmega_eq_zpow, exactConjT_exactOmega_eq_zpow, ← zpow_add₀ (fourierRoot_ne_zero n), ← zpow_natCast,
      ← zpow_mul]
    ring_nf
  have hroot : IsPrimitiveRoot (fourierRoot n) n := Complex.isPrimitiveRoot_exp n (by omega)
  simp only [hterm]
  split_ifs with hkl
  · simp [hkl]
  · have hne : fourierRoot n ^ (l - k : ℤ) ≠ 1 := by
      rw [Ne, hroot.zpow_eq_one_iff_dvd]
      intro hdvd
      have := Int.eq_zero_of_abs_lt_dvd hdvd (by rw [abs_lt]; omega)
      omega
    have hpow : (fourierRoot n ^ (l - k : ℤ)) ^ n = 1 := by
      rw [← zpow_natCast, zpow_comm, zpow_natCast, hroot.pow_eq_one, one_zpow]
    rw [geom_sum_eq hne, hpow, sub_self, zero_div]

/-- The columns of Ω, by the symmetry of Ω. -/
theorem sum_exactConjT_mul_exactOmega {n k l : ℕ} (hk : k < n) (hl : l < n) :
    ∑ a ∈ Finset.range n, exactConjT (exactOmega n) k a * exactOmega n a l = if k = l then (n : ℂ) else 0 := by
  have hterm : ∀ a : ℕ, exactConjT (exactOmega n) k a * exactOmega n a l =
      exactOmega n l a * exactConjT (exactOmega n) a k := by
    intro a
    rw [exactOmega_symm n a l, mul_comm, exactConjT_exactOmega_eq_zpow, exactConjT_exactOmega_eq_zpow,
      mul_comm (k : ℤ)]
  simp only [hterm, sum_exactOmega_mul_exactConjT hl hk, eq_comm]

end Sys2Proof.Machine

namespace Sys2Proof

/-! The exact products as products of Mathlib's matrices (00_scope.md R13) -/

section

open Machine (exactProduct exactOmega exactConjT exactCsim fpComplex exactOmega_symm sum_exactOmega_mul_exactConjT
  sum_exactConjT_mul_exactOmega)

/-- The n×n matrix of the entries below n. -/
def squareMatrix {K : Type} (n : ℕ) (c : ℕ → ℕ → K) : Matrix (Fin n) (Fin n) K := Matrix.of fun i j => c i j

@[simp] theorem squareMatrix_apply {K : Type} (n : ℕ) (c : ℕ → ℕ → K) (i j : Fin n) : squareMatrix n c i j = c i j := rfl

theorem exactProduct_eq_mul {K : Type} [CommRing K] {n : ℕ} (l m r : ℕ → ℕ → K) (k j : Fin n) :
    exactProduct n l m r k j = (squareMatrix n l * squareMatrix n m * squareMatrix n r) k j := by
  simp only [exactProduct, Matrix.mul_apply, squareMatrix_apply, Finset.sum_range, Finset.sum_mul]
  exact Finset.sum_comm

/-- A product looks at the middle matrix at the entries below n only. -/
theorem exactProduct_congr {K : Type} [CommRing K] {n : ℕ} {m m' : ℕ → ℕ → K}
    (h : ∀ a b, a < n → b < n → m a b = m' a b) (l r : ℕ → ℕ → K) (k j : ℕ) :
    exactProduct n l m r k j = exactProduct n l m' r k j :=
  Finset.sum_congr rfl fun a ha => Finset.sum_congr rfl fun b hb => by
    rw [h a b (Finset.mem_range.1 ha) (Finset.mem_range.1 hb)]

/-- Ωᴴ · Ω = n · 1 (41_basis.md R203). -/
theorem squareMatrix_exactConjT_mul_exactOmega (n : ℕ) :
    squareMatrix n (exactConjT (exactOmega n)) * squareMatrix n (exactOmega n) = (n : ℂ) • 1 := by
  ext k l
  simpa [Matrix.mul_apply, Matrix.one_apply, Finset.sum_range, Fin.ext_iff] using
    sum_exactConjT_mul_exactOmega k.isLt l.isLt

/-- The exact forward DFT, Ω · M · Ωᴴ / n² (43_dft.md R231). -/
noncomputable def exactForwardDft (n : ℕ) (m : ℕ → ℕ → ℂ) (i j : ℕ) : ℂ :=
  exactProduct n (exactOmega n) m (exactConjT (exactOmega n)) i j / (n : ℂ) ^ 2

theorem squareMatrix_exactForwardDft (n : ℕ) (m : ℕ → ℕ → ℂ) :
    squareMatrix n (exactForwardDft n m) = ((n : ℂ) ^ 2)⁻¹ •
      (squareMatrix n (exactOmega n) * squareMatrix n m * squareMatrix n (exactConjT (exactOmega n))) := by
  ext i j
  rw [squareMatrix_apply, exactForwardDft, exactProduct_eq_mul, Matrix.smul_apply, smul_eq_mul, div_eq_inv_mul]

/-- Two matrices whose product in one order is c · 1 undo each other around any operand, up to c². -/
theorem conjugate_conjugate_of_mul_eq_smul {n : ℕ} {W W' : Matrix (Fin n) (Fin n) ℂ} {c : ℂ} (hc : c ≠ 0)
    (h : W' * W = c • 1) (M : Matrix (Fin n) (Fin n) ℂ) : W' * ((c ^ 2)⁻¹ • (W * M * W')) * W = M :=
  calc W' * ((c ^ 2)⁻¹ • (W * M * W')) * W
      = (c ^ 2)⁻¹ • ((W' * W) * M * (W' * W)) := by simp only [Matrix.mul_smul, Matrix.smul_mul, Matrix.mul_assoc]
    _ = ((c ^ 2)⁻¹ * (c * c)) • M := by
        simp only [h, Matrix.smul_mul, Matrix.mul_smul, one_mul, mul_one, smul_smul]
    _ = M := by rw [← pow_two, inv_mul_cancel₀ (pow_ne_zero 2 hc), one_smul]

/-- The exact inverse DFT of the exact forward DFT is the operand (43_dft.md R232, R235). -/
theorem exactInverse_exactForwardDft {n k l : ℕ} (m : ℕ → ℕ → ℂ) (hk : k < n) (hl : l < n) :
    exactProduct n (exactConjT (exactOmega n)) (exactForwardDft n m) (exactOmega n) k l = m k l := by
  have hn : (n : ℂ) ≠ 0 := Nat.cast_ne_zero.2 (by omega)
  have hmul := exactProduct_eq_mul (exactConjT (exactOmega n)) (exactForwardDft n m) (exactOmega n) ⟨k, hk⟩ ⟨l, hl⟩
  rwa [squareMatrix_exactForwardDft,
    conjugate_conjugate_of_mul_eq_smul hn (squareMatrix_exactConjT_mul_exactOmega n)] at hmul

/-- The raster index i · n + j of an exact CPLX product names its entry (i, j) (00_scope.md R10). -/
theorem exactCsim_raster {n j : ℕ} (hj : j < n) (l : ℕ → ℕ → ℂ) (m : List C64) (r : ℕ → ℕ → ℂ) (i : ℕ) :
    exactCsim n l m r (i * n + j) = exactProduct n l (fun a b => fpComplex (m.getD (a * n + b) default)) r i j := by
  rw [exactCsim, mul_comm, Nat.mul_add_div (by omega), Nat.div_eq_of_lt hj, add_zero, Nat.mul_add_mod,
    Nat.mod_eq_of_lt hj]

/-- Settles O60: the entries are powers of a primitive root of unity, so Ωᴴ · Ω = n · 1, and the two factors n cancel n². -/
theorem exactFourierInverse : Obligations.ExactFourierInverse := by
  refine ⟨fun n k l hk hl => ⟨sum_exactOmega_mul_exactConjT hk hl, sum_exactConjT_mul_exactOmega hk hl,
    exactOmega_symm n k l⟩, fun n m k l => exactInverse_exactForwardDft m, fun n m k l hk hl => ?_⟩
  rw [exactProduct_congr fun i j _ hj => by rw [exactCsim_raster hj]]
  exact exactInverse_exactForwardDft (fun a b => fpComplex (m.getD (a * n + b) default)) hk hl

end

section

open Machine

/-- Settles O10: every legal order passes the order check, and the matrix of that order is committed. -/
theorem basisCommandsBuildTheirMatrix : Obligations.BasisCommandsBuildTheirMatrix := by
  intro s vd n h1
  exact ⟨finish_needOrder s vd _ h1, fun h16 => ⟨finish_needOrder s vd _ h1 h16, finish_needOrder s vd _ h1 h16,
    finish_needOrder s vd _ h1 h16, finish_needOrder s vd _ h1 h16⟩⟩

/-- Settles O11: the order check of each command refuses the order. -/
theorem basisOrderErrors : Obligations.BasisOrderErrors := by
  intro s vd n
  refine ⟨finish_needOrder_illegal s vd _, fun h i hi => ?_⟩
  simp only [List.mem_cons, List.not_mem_nil, or_false] at hi
  rcases hi with rfl | rfl | rfl | rfl <;> exact finish_needOrder_illegal s vd _ h

end

end Sys2Proof

/-! PROOFS. The transform unit (42_dct.md): what its commands report when a check of their operand fails, what the
reshaping commands keep, and that the two exact forms of the forward DCT-II are one. -/

namespace Sys2Proof.Machine

/-! A check at the head of a command -/

section
variable {s : State} {vd vs : Fin 8} {α : Type} {x : Except ErrCode α}

/-- A command whose first check raises an error fails with it (60_exceptions.md R301, R303). -/
theorem finish_bind_error {e : ErrCode} (h : x = .error e) (f : α → Except ErrCode Matrix) :
    s.finish vd (x >>= f) = .next (s.failed e) := by
  rw [h, except_bind_error, State.finish_error, State.failed_eq_raise]

/-- A command whose first check passes goes on with what the check read. -/
theorem finish_bind_ok {a : α} (h : x = .ok a) (f : α → Except ErrCode Matrix) :
    s.finish vd (x >>= f) = s.finish vd (f a) := by
  rw [h, except_bind_ok]

end

/-! Operands that are refused, in the order of 60_exceptions.md R303 -/

theorem Matrix.needSquare_error {m : Matrix} (h : m.rows ≠ m.cols) : m.needSquare = .error .shape := by
  rw [Matrix.needSquare, if_neg h]

theorem Matrix.needVector_error {m : Matrix} (h : ¬(m.rows = 1 ∨ m.cols = 1)) : m.needVector = .error .shape := by
  rw [Matrix.needVector, if_neg h]

section
variable {s : State} {vs : Fin 8} {r c : Nat}

theorem State.blockOperand_uninit (h : s.v[vs] = none) : s.blockOperand vs = .error .uninit := by
  rw [State.blockOperand, State.readV_none h, except_bind_error]

theorem State.blockOperand_type {zs : List C64} (h : s.v[vs] = some ⟨r, c, .cplx zs⟩) :
    s.blockOperand vs = .error .type := by
  rw [State.blockOperand, State.readV_some h, except_bind_ok, Matrix.needReal_cplx rfl, except_bind_error]

theorem State.blockOperand_shape {xs : List F64} (h : s.v[vs] = some ⟨r, c, .real xs⟩) (hrc : ¬(r = 8 ∧ c = 8)) :
    s.blockOperand vs = .error .shape := by
  rw [State.blockOperand, State.readV_some h, except_bind_ok, Matrix.needReal_ok.2 rfl, except_bind_ok,
    Matrix.needBlock_error hrc, except_bind_error]

/-- VS and MK raise the same error, so it does not show which of them was read first. -/
theorem State.maskOperand_uninit {j : Fin 4} (h : s.v[vs] = none ∨ s.masks[j] = none) :
    s.maskOperand vs j = .error .uninit := by
  cases hv : s.v[vs] with
  | none => rw [State.maskOperand, State.readV_none hv, except_bind_error]
  | some m =>
    have hmask : s.masks[j] = none := h.resolve_left fun hnone => nomatch hv.symm.trans hnone
    rw [State.maskOperand, State.readV_some hv, except_bind_ok, State.readMask_none hmask, except_bind_error]

/-- With a valid mask APPLYMASK goes through the checks of a block command (45_mask.md R283). -/
theorem State.maskOperand_eq_blockOperand {j : Fin 4} {w : BitVec 64} (hw : s.masks[j] = some w) :
    s.maskOperand vs j = (s.blockOperand vs >>= fun xs => pure (xs, w)) := by
  simp only [State.maskOperand, State.blockOperand, State.readMask_ok.2 hw, except_bind_ok, bind_assoc, pure_bind]

theorem State.squareOperand_uninit (h : s.v[vs] = none) : s.squareOperand vs = .error .uninit := by
  rw [State.squareOperand, State.readV_none h, except_bind_error]

theorem State.squareOperand_shape {e : Elems} (h : s.v[vs] = some ⟨r, c, e⟩) (hrc : r ≠ c) :
    s.squareOperand vs = .error .shape := by
  rw [State.squareOperand, State.readV_some h, except_bind_ok, Matrix.needSquare_error hrc, except_bind_error]

theorem State.dft8Operand_uninit (h : s.v[vs] = none) : s.dft8Operand vs = .error .uninit := by
  rw [State.dft8Operand, State.readV_none h, except_bind_error]

theorem State.dft8Operand_shape {e : Elems} (h : s.v[vs] = some ⟨r, c, e⟩) (hrc : ¬(r = 8 ∧ c = 8)) :
    s.dft8Operand vs = .error .shape := by
  rw [State.dft8Operand, State.readV_some h, except_bind_ok, Matrix.needBlock_error hrc, except_bind_error]

end

/-- The commands on an 8×8 REAL operand begin with its checks (42_dct.md R210, 44_quant.md R250). -/
theorem blockCommand_eq_finish {i : Instr} {vd vs : Fin 8}
    (hi : i ∈ [Instr.dctk vd vs, .idctk vd vs, .dcto vd vs, .idcto vd vs, .quant vd vs, .dequant vd vs]) (s : State) :
    ∃ f, exec i s = s.finish vd (s.blockOperand vs >>= f) := by
  simp only [List.mem_cons, List.not_mem_nil, or_false] at hi
  rcases hi with rfl | rfl | rfl | rfl | rfl | rfl <;> exact ⟨_, rfl⟩

/-! Reshaping (42_dct.md R216 to R218) -/

section
variable {s : State} {vs : Fin 8} {m : Matrix} {n : Nat} (vd : Fin 8)

/-- VEC2MAT of a vector of n² elements changes its shape to n×n and nothing else. -/
theorem execVec2mat_vector (h : s.v[vs] = some m) (hvec : m.rows = 1 ∨ m.cols = 1) (hn : 1 ≤ n)
    (hlen : n * n = m.rows * m.cols) :
    execVec2mat vd vs s = .next (s.committed vd { m with rows := n, cols := n }) := by
  rw [execVec2mat, finish_bind_ok (State.readV_some h), finish_bind_ok (Matrix.needVector_ok.2 ⟨hvec, rfl⟩),
    finish_bind_ok (needPerfectSquare_ok.2 ⟨hn, hlen⟩)]
  rfl

/-- MAT2VEC of an n×n matrix changes its shape to 1×n² and nothing else. -/
theorem execMat2vec_square {e : Elems} (h : s.v[vs] = some ⟨n, n, e⟩) :
    execMat2vec vd vs s = .next (s.committed vd ⟨1, n * n, e⟩) := by
  rw [execMat2vec, finish_bind_ok (State.readV_some h), finish_bind_ok (Matrix.needSquare_ok.2 ⟨rfl, rfl⟩)]
  rfl

/-- A committed result is what its register then holds. -/
theorem State.committed_v_self : (s.committed vd m).v[vd] = some m := Vector.getElem_set_self ..

end

/-! The exact forward DCT-II (42_dct.md R211, R214) -/

/-- A sum over the raster indices of an m×n matrix, row by row. -/
theorem sum_range_raster {M : Type} [AddCommMonoid M] (f : ℕ → M) (m n : ℕ) :
    ∑ j ∈ Finset.range (m * n), f j = ∑ a ∈ Finset.range m, ∑ b ∈ Finset.range n, f (a * n + b) := by
  induction m with
  | zero => simp
  | succ m ih => rw [Nat.succ_mul, Finset.sum_range_add, ih, Finset.sum_range_succ]

/-- The Kronecker form and the similarity form of a transform are equal: (C ⊗ C) · vec(M) is C · M · Cᵀ, read in raster
order (42_dct.md R219). -/
theorem exactKron_eq_exactSim (c : ℕ → ℕ → ℝ) (m : List F64) (i : ℕ) :
    exactKron c m i = exactSim 8 c m (fun k l => c l k) i := by
  rw [exactKron, exactSim, exactProduct, sum_range_raster _ 8 8]
  refine Finset.sum_congr rfl fun a _ => Finset.sum_congr rfl fun b hb => ?_
  have hb8 : b < 8 := Finset.mem_range.1 hb
  have hrow : (a * 8 + b) / 8 = a := by omega
  have hcol : (a * 8 + b) % 8 = b := by omega
  rw [hrow, hcol, mul_right_comm]

/-- Two elements near one exact value are within twice the bound of each other. -/
theorem abs_sub_le_of_near {bound exact : ℝ} {x y : F64} (hx : near bound x exact) (hy : near bound y exact) :
    |fpReal x - fpReal y| ≤ 2 * bound := by
  obtain ⟨-, hx⟩ := hx
  obtain ⟨-, hy⟩ := hy
  rw [abs_sub_comm] at hy
  calc |fpReal x - fpReal y| ≤ |fpReal x - exact| + |exact - fpReal y| := abs_sub_le ..
    _ ≤ bound + bound := add_le_add hx hy
    _ = 2 * bound := (two_mul bound).symm

/-- A list holds at an index in its range what the default-valued access gives. -/
theorem getElem?_eq_some_getD {xs : List F64} {i : ℕ} (h : i < xs.length) : xs[i]? = some (xs.getD i fpZero) := by
  rw [List.getD_eq_getElem _ _ h, List.getElem?_eq_getElem h]

end Sys2Proof.Machine

namespace Sys2Proof

open Machine

/-- Settles O14: the operand passes the checks, and each command's product is committed. -/
theorem dctCommandResults : Obligations.DctCommandResults := by
  intro s vd vs xs h
  exact ⟨finish_blockOperand vd h _, finish_blockOperand vd h _, finish_blockOperand vd h _, finish_blockOperand vd h _⟩

/-- Settles O15: the block commands and, with a valid mask, APPLYMASK fail with the error of the block operand. -/
theorem blockOperandErrors : Obligations.BlockOperandErrors := by
  intro s vd vs j
  have applymask_error : ∀ {e w}, s.masks[j] = some w → s.blockOperand vs = .error e →
      exec (.applymask vd vs j) s = .next (s.failed e) := fun hw he =>
    finish_bind_error (by rw [State.maskOperand_eq_blockOperand hw, he, except_bind_error]) _
  refine ⟨fun i hi => ?_, fun h => finish_bind_error (State.maskOperand_uninit (.inl h)) _,
    fun h => finish_bind_error (State.maskOperand_uninit (.inr h)) _,
    fun r c zs w h hw => applymask_error hw (State.blockOperand_type h),
    fun r c xs w h hw hrc => applymask_error hw (State.blockOperand_shape h hrc)⟩
  obtain ⟨f, hf⟩ := blockCommand_eq_finish hi s
  rw [hf]
  exact ⟨fun h => finish_bind_error (State.blockOperand_uninit h) f,
    fun r c zs h => finish_bind_error (State.blockOperand_type h) f,
    fun r c xs h hrc => finish_bind_error (State.blockOperand_shape h hrc) f⟩

/-- Settles O17: both commands pass the elements on and write only a new shape. -/
theorem reshapeCommandsKeepElements : Obligations.ReshapeCommandsKeepElements := by
  intro s vd vs n e
  refine ⟨fun hn hvec => ?_, fun h => execMat2vec_square vd h⟩
  rcases hvec with hrow | hcol
  · exact execVec2mat_vector vd hrow (.inl rfl) hn (one_mul _).symm
  · exact execVec2mat_vector vd hcol (.inr rfl) hn (mul_one _).symm

/-- Settles O18: the second command reads the reshaped matrix that the first one committed. -/
theorem reshapeRoundTrip : Obligations.ReshapeRoundTrip := by
  intro s va vb vs n e hn
  obtain ⟨hvec2mat, hmat2vec⟩ := reshapeCommandsKeepElements s va vs n e
  refine ⟨fun hvec => ?_, fun h => ?_⟩
  · exact ⟨_, _, hvec2mat hn hvec, execMat2vec_square vb (State.committed_v_self va), State.committed_v_self vb⟩
  · obtain ⟨hback, -⟩ := reshapeCommandsKeepElements (s.committed va ⟨1, n * n, e⟩) vb va n e
    exact ⟨_, _, hmat2vec h, hback hn (.inl (State.committed_v_self va)), (State.committed_v_self vb).trans h.symm⟩

/-- Settles O19: the first check that fails, in the order in which each command runs its checks, gives the error. -/
theorem reshapeAndDftErrors : Obligations.ReshapeAndDftErrors := by
  intro s vd vs
  refine ⟨fun h i hi => ?_, fun r c e h => ⟨fun hvec => ?_, fun ⟨hvec, hlen⟩ => ?_, fun hrc i hi => ?_,
    fun hrc i hi => ?_⟩⟩
  · simp only [List.mem_cons, List.not_mem_nil, or_false] at hi
    rcases hi with rfl | rfl | rfl | rfl | rfl | rfl
    · exact finish_bind_error (State.readV_none h) _
    · exact finish_bind_error (State.readV_none h) _
    · exact finish_bind_error (State.squareOperand_uninit h) _
    · exact finish_bind_error (State.squareOperand_uninit h) _
    · exact finish_bind_error (State.dft8Operand_uninit h) _
    · exact finish_bind_error (State.dft8Operand_uninit h) _
  · exact (finish_bind_ok (State.readV_some h) _).trans (finish_bind_error (Matrix.needVector_error (not_or.2 hvec)) _)
  · exact (finish_bind_ok (State.readV_some h) _).trans
      ((finish_bind_ok (Matrix.needVector_ok.2 ⟨hvec, rfl⟩) _).trans (finish_bind_error (needPerfectSquare_error hlen) _))
  · simp only [List.mem_cons, List.not_mem_nil, or_false] at hi
    rcases hi with rfl | rfl | rfl
    · exact (finish_bind_ok (State.readV_some h) _).trans (finish_bind_error (Matrix.needSquare_error hrc) _)
    · exact finish_bind_error (State.squareOperand_shape h hrc) _
    · exact finish_bind_error (State.squareOperand_shape h hrc) _
  · simp only [List.mem_cons, List.not_mem_nil, or_false] at hi
    rcases hi with rfl | rfl <;> exact finish_bind_error (State.dft8Operand_shape h hrc) _

/-- Settles O59: both results are near the same exact matrix, as the two exact forms are equal. -/
theorem dctFormsAgree : Obligations.DctFormsAgree := by
  intro eps S s vd vs xs hinv h hS hkron hrsim
  obtain ⟨hdctk, -, hdcto, -⟩ := dctCommandResults s vd vs xs h
  obtain ⟨hc8II, -⟩ := hinv.rom
  rw [hc8II] at hdctk hdcto
  refine ⟨_, _, hdctk, hdcto, fun i hi => ?_⟩
  have ha := hkron S i hS hi
  have hb := hrsim S i hS hi
  rw [← exactKron_eq_exactSim] at hb
  have hclose := abs_sub_le_of_near ha hb
  obtain ⟨hafinite, -⟩ := ha
  obtain ⟨hbfinite, -⟩ := hb
  rw [← mul_assoc] at hclose
  exact ⟨_, _, getElem?_eq_some_getD (by rwa [numKron_length]), getElem?_eq_some_getD (by rwa [numRsim_length]),
    hafinite, hbfinite, hclose⟩

end Sys2Proof

/-! PROOFS. The DFT core (43_dft.md): what its commands deliver on an operand of a legal shape, and that at order 8 the
constant pair gives the general transform bit for bit. -/

namespace Sys2Proof.Machine

/-! The division of both parts (43_dft.md R231) -/

/-- An element of the scaled list is the element at the same index, both parts divided. -/
theorem scaleParts_getElem? {zs : List C64} {i : Nat} (hi : i < zs.length) (d : F64) :
    ∃ p, zs[i]? = some p ∧ (scaleParts zs d)[i]? = some ⟨fpDiv (2 * i) p.re d, fpDiv (2 * i + 1) p.im d⟩ := by
  have hp : zs[i]? = some zs[i] := List.getElem?_eq_getElem hi
  exact ⟨zs[i], hp, by rw [scaleParts, List.getElem?_mapIdx, hp, Option.map_some]⟩

theorem fpOfNat_sixtyFour : fpOfNat 64 = 0x4050000000000000#64 := by decide +kernel

/-! What each command commits -/

section
variable {s : State} {vs : Fin 8} {e : Elems} (vd : Fin 8)

theorem execDft_square {n : Nat} (h : s.v[vs] = some ⟨n, n, e⟩) :
    execDft vd vs s = .next (s.committed vd ⟨n, n, .cplx
      (scaleParts (numCsim n (numOmega n) e.toComplex (conjTranspose n (numOmega n))) (fpOfNat (n * n)))⟩) :=
  finish_squareOperand vd h fun n zs =>
    scaleParts (numCsim n (numOmega n) zs (conjTranspose n (numOmega n))) (fpOfNat (n * n))

theorem execIdft_square {n : Nat} (h : s.v[vs] = some ⟨n, n, e⟩) :
    execIdft vd vs s = .next (s.committed vd
      ⟨n, n, .cplx (numCsim n (conjTranspose n (numOmega n)) e.toComplex (numOmega n))⟩) :=
  finish_squareOperand vd h fun n zs => numCsim n (conjTranspose n (numOmega n)) zs (numOmega n)

theorem execDft8_block (h : s.v[vs] = some ⟨8, 8, e⟩) :
    execDft8 vd vs s = .next (s.committed vd
      ⟨8, 8, .cplx (scaleParts (numCsim 8 s.rom.omega8 e.toComplex s.rom.omega8H) (fpOfNat 64))⟩) :=
  finish_dft8Operand vd h _

theorem execIdft8_block (h : s.v[vs] = some ⟨8, 8, e⟩) :
    execIdft8 vd vs s = .next (s.committed vd
      ⟨8, 8, .cplx (numCsim 8 s.rom.omega8H e.toComplex s.rom.omega8)⟩) :=
  finish_dft8Operand vd h _

end

end Sys2Proof.Machine

namespace Sys2Proof

open Machine

/-- Settles O20: each command commits its product, and a forward one scales it element by element. -/
theorem dftCommandResults : Obligations.DftCommandResults := by
  have hlen : ∀ n l m r d, (scaleParts (numCsim n l m r) d).length = n * n := fun n l m r d => by
    rw [scaleParts_length, numCsim_length]
  refine ⟨fun s vd vs n e h => ⟨⟨_, execDft_square vd h, hlen .., fun i hi => ?general⟩, execIdft_square vd h⟩,
    fun s vd vs e h => ⟨⟨_, execDft8_block vd h, hlen .., fun i hi => ?orderEight⟩, execIdft8_block vd h⟩⟩
  case general => exact scaleParts_getElem? (by rwa [numCsim_length]) _
  case orderEight =>
    rw [fpOfNat_sixtyFour]
    exact scaleParts_getElem? (by rwa [numCsim_length]) _

/-- Settles O21: the constant store holds the very matrices that the general commands compute with at order 8, and
64 = 8 · 8. -/
theorem dft8IsDftAtOrderEight : Obligations.Dft8IsDftAtOrderEight := by
  intro s vd vs e hs h
  obtain ⟨-, -, homega, homegaH, -⟩ := hs.rom
  have hdft8 := execDft8_block vd h
  have hidft8 := execIdft8_block vd h
  rw [homega, homegaH] at hdft8 hidft8
  exact ⟨hdft8.trans (execDft_square vd h).symm, hidft8.trans (execIdft_square vd h).symm⟩

end Sys2Proof

/-! PROOFS. Rounding as the quantization unit meets it: correct rounding is monotone and keeps what it can represent. -/

namespace Sys2Proof.Machine

/-! Finite patterns and their values -/

theorem fpRat_eq_iff {x : F64} {r : ℚ} : fpRat x = r ↔ fpReal x = r := Rat.cast_inj.symm

theorem fpReal_fin_pos {x : F64} {m : Nat} (h : unpack x = .fin false m) : fpReal x = m / fpOne := by
  rw [fpReal_fin h, signed_cast, signFactor, if_neg Bool.false_ne_true, one_mul]

theorem unitsOf_inj {a b : Nat} (ha : a < infMag) (hb : b < infMag) (h : unitsOf a = unitsOf b) : a = b := by
  rw [← roundMag_exact ha one_pos, h, roundMag_exact hb one_pos]

theorem fpReal_packMag (p : Bool) {mag : Nat} (h : mag < infMag) :
    fpReal (packMag p mag) = signFactor p * (unitsOf mag / fpOne) := by
  rw [fpReal_fin (unpack_packMag p h), signed_cast, mul_div_assoc]

/-- The sign and the value determine a finite pattern. -/
theorem eq_of_fpReal_eq {x y : F64} (hx : fpFinite x = true) (hy : fpFinite y = true) (hs : x.msb = y.msb)
    (h : fpReal x = fpReal y) : x = y := by
  obtain ⟨p, m, hm⟩ := fpFinite_iff.1 hx
  obtain ⟨q, n, hn⟩ := fpFinite_iff.1 hy
  obtain rfl : p = q := by rw [← msb_of_fin hm, hs, msb_of_fin hn]
  obtain ⟨a, ha, rfl, -⟩ := finite_packMag hm
  obtain ⟨b, hb, rfl, -⟩ := finite_packMag hn
  have hsign : signFactor p ≠ 0 := by cases p <;> simp [signFactor]
  rw [fpReal_packMag p ha, fpReal_packMag p hb, mul_right_inj' hsign, div_left_inj' fpOne_cast_pos.ne'] at h
  rw [unitsOf_inj ha hb (Nat.cast_injective h)]

/-- A finite nonzero value has its own sign. -/
theorem msb_eq_of_fpReal_ne_zero {x : F64} (hx : fpFinite x = true) (h : fpReal x ≠ 0) :
    x.msb = decide (fpReal x < 0) := by
  obtain ⟨p, m, hm⟩ := fpFinite_iff.1 hx
  have hnonneg := units_nonneg m
  rw [msb_of_fin hm]
  rw [fpReal_fin hm, signed_cast, mul_div_assoc] at h ⊢
  have hpos : (0 : ℝ) < m / fpOne := hnonneg.lt_of_ne' (right_ne_zero_of_mul h)
  generalize (m / fpOne : ℝ) = u at hpos hnonneg
  cases p <;> simp [signFactor, hpos, hnonneg]

/-- A nonzero value has one pattern. -/
theorem eq_of_fpReal_eq_of_ne_zero {x y : F64} (hx : fpFinite x = true) (hy : fpFinite y = true) (hne : fpReal y ≠ 0)
    (h : fpReal x = fpReal y) : x = y := by
  refine eq_of_fpReal_eq hx hy ?_ h
  rw [msb_eq_of_fpReal_ne_zero hx (h ▸ hne), msb_eq_of_fpReal_ne_zero hy hne, h]

theorem fpFinite_or_inf_or_nan (x : F64) : fpFinite x = true ∨ (∃ p, unpack x = .inf p) ∨ unpack x = .nan := by
  rw [fpFinite_iff]
  cases unpack x <;> simp

theorem not_finite_of_inf {x : F64} {p : Bool} (h : unpack x = .inf p) : fpFinite x = false := by
  rw [fpFinite, h]

theorem not_finite_of_nan {x : F64} (h : unpack x = .nan) : fpFinite x = false := by
  rw [fpFinite, h]

theorem fpIsNaN_eq_false_of_finite {x : F64} (h : fpFinite x = true) : fpIsNaN x = false := by
  obtain ⟨p, m, hm⟩ := fpFinite_iff.1 h
  rw [fpIsNaN, hm]; rfl

/-! Integers (00_scope.md R15, R22) -/

theorem fpFinite_fpOfNat {n : Nat} (h : n ≤ 2 ^ 53) : fpFinite (fpOfNat n) = true :=
  fpFinite_iff.2 ⟨_, _, unpack_fpOfNat h⟩

theorem fpReal_fpOfNat {n : Nat} (h : n ≤ 2 ^ 53) : fpReal (fpOfNat n) = n := by
  rw [fpReal_fin_pos (unpack_fpOfNat h), Nat.cast_mul, mul_div_cancel_right₀ _ fpOne_cast_pos.ne']

theorem msb_fpOfNat {n : Nat} (h : n ≤ 2 ^ 53) : (fpOfNat n).msb = false := msb_of_fin (unpack_fpOfNat h)

/-- Every integer up to 2^53 in magnitude is the value of a finite pattern. -/
theorem exists_fpReal_eq_int {z : ℤ} (hz : |z| ≤ 2 ^ 53) : ∃ w, fpFinite w = true ∧ fpReal w = z := by
  have hn : z.natAbs ≤ 2 ^ 53 := by rw [Int.abs_eq_natAbs] at hz; exact_mod_cast hz
  obtain ⟨mag, hmag, -, hunits⟩ := finite_packMag (unpack_fpOfNat hn)
  refine ⟨packMag (decide (z < 0)) mag, fpFinite_iff.2 ⟨_, _, unpack_packMag _ hmag⟩, ?_⟩
  rw [fpReal_packMag _ hmag, ← hunits, Nat.cast_mul, mul_div_cancel_right₀ _ fpOne_cast_pos.ne', ← signed_natAbs]

theorem exists_fpReal_eq_neg {x : F64} (hx : fpFinite x = true) : ∃ w, fpFinite w = true ∧ fpReal w = -fpReal x := by
  obtain ⟨p, m, hm⟩ := fpFinite_iff.1 hx
  obtain ⟨mag, hmag, rfl, -⟩ := finite_packMag hm
  exact ⟨packMag (!p) mag, fpFinite_iff.2 ⟨_, _, unpack_packMag _ hmag⟩, by
    rw [fpReal_packMag _ hmag, fpReal_packMag _ hmag, signFactor_not, neg_mul]⟩

/-! Correct rounding (00_scope.md R16, R21) -/

section
variable {t : ℝ} {y w : F64}

/-- No finite value is nearer than the rounded one. -/
theorem isFl.nearest (h : isFl t y) (hw : fpFinite w = true) : |fpReal y - t| ≤ |fpReal w - t| := by
  by_cases heq : fpReal w = fpReal y
  · rw [heq]
  · exact (h.2 w hw heq).elim le_of_lt fun hcase => hcase.1.le

/-- A representable value is kept. -/
theorem isFl.eq_of_exact (h : isFl t y) (hw : fpFinite w = true) (ht : fpReal w = t) : fpReal y = t := by
  have hle := h.nearest hw
  rw [ht, sub_self, abs_zero, abs_nonpos_iff, sub_eq_zero] at hle
  exact hle

/-- What is at most a representable value rounds to at most that value. -/
theorem isFl.le_of_le (h : isFl t y) (hw : fpFinite w = true) (ht : t ≤ fpReal w) : fpReal y ≤ fpReal w := by
  have hle := h.nearest hw
  rw [abs_of_nonneg (sub_nonneg.2 ht)] at hle
  linarith [le_abs_self (fpReal y - t)]

/-- What is at least a representable value rounds to at least that value. -/
theorem isFl.ge_of_ge (h : isFl t y) (hw : fpFinite w = true) (ht : fpReal w ≤ t) : fpReal w ≤ fpReal y := by
  have hle := h.nearest hw
  rw [abs_of_nonpos (sub_nonpos.2 ht)] at hle
  linarith [neg_abs_le (fpReal y - t)]

/-- Rounding does not pass a representable magnitude. -/
theorem isFl.abs_le_of_abs_le (h : isFl t y) (hw : fpFinite w = true) (ht : |t| ≤ fpReal w) :
    |fpReal y| ≤ fpReal w := by
  obtain ⟨w', hw', hval⟩ := exists_fpReal_eq_neg hw
  obtain ⟨hlo, hhi⟩ := abs_le.1 ht
  exact abs_le.2 ⟨hval ▸ h.ge_of_ge hw' (hval ▸ hlo), h.le_of_le hw hhi⟩

/-- Rounding at most doubles the distance to an integer. -/
theorem isFl.abs_sub_int_le {z : ℤ} (h : isFl t y) (hz : |z| ≤ 2 ^ 53) : |fpReal y - z| ≤ 2 * |t - z| := by
  obtain ⟨w, hw, hval⟩ := exists_fpReal_eq_int hz
  have hle := h.nearest hw
  rw [hval, abs_sub_comm (z : ℝ)] at hle
  calc |fpReal y - z| ≤ |fpReal y - t| + |t - z| := abs_sub_le ..
    _ ≤ |t - z| + |t - z| := by gcongr
    _ = 2 * |t - z| := (two_mul _).symm

/-- A finite result has not overflowed. -/
theorem Rounded.isFl_of_finite (h : Rounded t y) (hy : fpFinite y = true) : isFl t y := by
  obtain ⟨hfl, hpos, hneg⟩ := h
  by_cases hlt : |t| < 2 ^ 1024 - 2 ^ 970
  · exact hfl hlt
  · rcases le_abs'.1 (not_lt.1 hlt) with hle | hle
    · rw [hneg hle] at hy; exact absurd hy (by decide)
    · rw [hpos hle] at hy; exact absurd hy (by decide)

theorem two_pow_53_lt_overflow : (2 : ℝ) ^ 53 < 2 ^ 1024 - 2 ^ 970 := by
  rw [lt_sub_iff_add_lt]
  calc (2 : ℝ) ^ 53 + 2 ^ 970 < 2 ^ 970 + 2 ^ 970 := by
        gcongr
        · exact one_lt_two
        · norm_num
    _ = 2 ^ 971 := by rw [pow_succ 2 970, mul_two]
    _ ≤ 2 ^ 1024 := pow_le_pow_right₀ one_le_two (by norm_num)

/-- No value up to 2^53 in magnitude overflows. -/
theorem Rounded.isFl_of_le (h : Rounded t y) (ht : |t| ≤ 2 ^ 53) : isFl t y :=
  h.1 (ht.trans_lt two_pow_53_lt_overflow)

/-- An exact result that is an integer up to 2^53 in magnitude is delivered exactly. -/
theorem Rounded.eq_int {z : ℤ} (h : Rounded z y) (hz : |z| ≤ 2 ^ 53) : fpFinite y = true ∧ fpReal y = z := by
  obtain ⟨w, hw, hval⟩ := exists_fpReal_eq_int hz
  have hfl := h.isFl_of_le (by exact_mod_cast hz)
  exact ⟨hfl.1, hfl.eq_of_exact hw hval⟩

end

/-- A value that is a finite pattern's is its own rounding. -/
theorem isFl_self {x : F64} (hx : fpFinite x = true) : isFl (fpReal x) x :=
  ⟨hx, fun z _ hne => .inl (by rw [sub_self, abs_zero]; exact abs_pos.2 (sub_ne_zero.2 hne))⟩

/-! `rnd` (00_scope.md R24) -/

/-- `rnd` keeps the kind of a number. -/
theorem fpFinite_fpRnd (ties : RoundTies) (cell : Nat) (x : F64) : fpFinite (fpRnd ties cell x) = fpFinite x := by
  rcases fpFinite_or_inf_or_nan x with hfin | ⟨p, hinf⟩ | hnan
  · rw [(fpRnd_finite hfin ties cell).1, hfin]
  · rw [fpRnd_inf hinf]
  · rw [not_finite_of_nan hnan, not_finite_of_nan (fpRnd_nan hnan ties cell)]

theorem fpIsNaN_fpRnd {x : F64} (h : fpIsNaN x = false) (ties : RoundTies) (cell : Nat) :
    fpIsNaN (fpRnd ties cell x) = false := by
  rcases fpFinite_or_inf_or_nan x with hfin | ⟨p, hinf⟩ | hnan
  · exact fpIsNaN_eq_false_of_finite ((fpFinite_fpRnd ties cell x).trans hfin)
  · rw [fpRnd_inf hinf, h]
  · rw [fpIsNaN_iff.2 hnan] at h; cases h

theorem fpRnd_msb {x : F64} (hx : fpFinite x = true) (ties : RoundTies) (cell : Nat) :
    (fpRnd ties cell x).msb = x.msb := by
  obtain ⟨p, m, hm⟩ := fpFinite_iff.1 hx
  rw [msb_of_fin (unpack_fpRnd hm ties cell), msb_of_fin hm]

/-- A value within less than a half of an integer rounds to it. -/
theorem fpReal_fpRnd {x : F64} (hx : fpFinite x = true) {z : ℤ} (h : |fpReal x - z| < 1 / 2) (ties : RoundTies)
    (cell : Nat) : fpReal (fpRnd ties cell x) = z := by
  obtain ⟨-, k, hk, hnear, -⟩ := fpRnd_finite hx ties cell
  have hdist : |((z - k : ℤ) : ℝ)| < 1 := by
    rw [Int.cast_sub]
    calc |(z : ℝ) - k| ≤ |(z : ℝ) - fpReal x| + |fpReal x - k| := abs_sub_le ..
      _ < 1 / 2 + 1 / 2 := add_lt_add_of_lt_of_le (by rwa [abs_sub_comm]) hnear
      _ = 1 := by norm_num
  have hzero : z - k = 0 := Int.abs_lt_one_iff.1 (by exact_mod_cast hdist)
  rw [hk, sub_eq_zero.1 hzero]

/-- A value below a half in magnitude rounds to the zero of its sign. -/
theorem fpRnd_of_lt_half {x : F64} (hx : fpFinite x = true) (h : |fpReal x| < 1 / 2) (ties : RoundTies) (cell : Nat) :
    fpRnd ties cell x = packMag x.msb 0 := by
  have hzero : unpack (packMag x.msb 0) = .fin x.msb 0 := unpack_packMag_zero _
  have hval : fpReal (fpRnd ties cell x) = (0 : ℤ) :=
    fpReal_fpRnd hx (by rwa [Int.cast_zero, sub_zero]) ties cell
  refine eq_of_fpReal_eq (by rw [fpFinite_fpRnd, hx]) (fpFinite_iff.2 ⟨_, _, hzero⟩) ?_ ?_
  · rw [fpRnd_msb hx, msb_of_fin hzero]
  · rw [hval, fpReal_fin hzero, signed_cast, Nat.cast_zero, mul_zero, zero_div, Int.cast_zero]

/-- An integer rounds to itself, bit for bit. -/
theorem fpRnd_of_int {x : F64} (hx : fpFinite x = true) {z : ℤ} (h : fpReal x = z) (ties : RoundTies) (cell : Nat) :
    fpRnd ties cell x = x := by
  refine eq_of_fpReal_eq (by rw [fpFinite_fpRnd, hx]) hx (fpRnd_msb hx ties cell) ?_
  rw [h]
  exact fpReal_fpRnd hx (by rw [h, sub_self, abs_zero]; norm_num) ties cell

/-! `clip` (00_scope.md R25) -/

/-- Clipping between finite bounds delivers a bound, or the operand where it is between them. -/
theorem fpClip_cases {x lo hi : F64} (hlo : fpFinite lo = true) (hhi : fpFinite hi = true)
    (h : fpFinite (fpClip x lo hi) = true) : fpClip x lo hi = lo ∨ fpClip x lo hi = hi ∨
      fpClip x lo hi = x ∧ fpFinite x = true ∧ fpReal lo ≤ fpReal x ∧ fpReal x ≤ fpReal hi := by
  cases hbelow : fpLt x lo with
  | true => exact .inl (fpClip_low hbelow)
  | false =>
    cases habove : fpLt hi x with
    | true => exact .inr (.inl (fpClip_high hbelow habove))
    | false =>
      have hpass := fpClip_pass hbelow habove
      rw [hpass] at h
      rw [← Bool.not_eq_true, fpLt_fin h hlo, not_lt] at hbelow
      rw [← Bool.not_eq_true, fpLt_fin hhi h, not_lt] at habove
      exact .inr (.inr ⟨hpass, h, hbelow, habove⟩)

end Sys2Proof.Machine

/-! PROOFS. The quantization unit (44_quant.md): what its commands report when a check of their operand fails, and what
its element steps do to integers, to small coefficients, to infinities and to NaNs. -/

namespace Sys2Proof.Machine

/-! Operands that are refused, in the order of 60_exceptions.md R303 -/

section
variable {s : State} {vs : Fin 8} {r c d : Nat}

theorem State.depthOperand_uninit (h : s.v[vs] = none) : s.depthOperand vs d = .error .uninit := by
  rw [State.depthOperand, State.readV_none h, except_bind_error]

theorem State.depthOperand_type {zs : List C64} (h : s.v[vs] = some ⟨r, c, .cplx zs⟩) :
    s.depthOperand vs d = .error .type := by
  rw [State.depthOperand, State.readV_some h, except_bind_ok, Matrix.needReal_cplx rfl, except_bind_error]

theorem State.depthOperand_depth {xs : List F64} (h : s.v[vs] = some ⟨r, c, .real xs⟩) (hd : ¬(d = 8 ∨ d = 16)) :
    s.depthOperand vs d = .error .depth := by
  rw [State.depthOperand, State.readV_some h, except_bind_ok, Matrix.needReal_ok.2 rfl, except_bind_ok,
    needDepth_error hd, except_bind_error]

theorem State.depthOperand_shape {xs : List F64} (h : s.v[vs] = some ⟨r, c, .real xs⟩) (hd : d = 8 ∨ d = 16)
    (hrc : ¬(r = 8 ∧ c = 8)) : s.depthOperand vs d = .error .shape := by
  rw [State.depthOperand, State.readV_some h, except_bind_ok, Matrix.needReal_ok.2 rfl, except_bind_ok,
    needDepth_ok (u := ()) |>.2 hd, except_bind_ok, Matrix.needBlock_error hrc, except_bind_error]

end

/-- The commands with a depth begin with its checks (44_quant.md R250). -/
theorem depthCommand_eq_finish {i : Instr} {vd vs : Fin 8} {d : Nat}
    (hi : i ∈ [Instr.center vd vs d, .recon vd vs d, .qenc vd vs d, .qdec vd vs d]) (s : State) :
    ∃ f, exec i s = s.finish vd (s.depthOperand vs d >>= f) := by
  simp only [List.mem_cons, List.not_mem_nil, or_false] at hi
  rcases hi with rfl | rfl | rfl | rfl <;> exact ⟨_, rfl⟩

/-! CENTER (44_quant.md R251) -/

theorem centerCells_getElem? {d i : Nat} {xs : List F64} {x : F64} (h : xs[i]? = some x) :
    (centerCells d xs)[i]? = some (fpSub i x (halfRange d)) := by
  rw [centerCells, List.getElem?_mapIdx, h, Option.map_some]

/-- The difference of two natural numbers is exact, and +0.0 when they are equal. -/
theorem fpSub_fpOfNat (cell : Nat) {p h : Nat} (hp : p ≤ 2 ^ 53) (hh : h ≤ 2 ^ 53) :
    fpFinite (fpSub cell (fpOfNat p) (fpOfNat h)) = true ∧ fpReal (fpSub cell (fpOfNat p) (fpOfNat h)) = p - h ∧
      (p = h → fpSub cell (fpOfNat p) (fpOfNat h) = 0x0000000000000000#64) := by
  have hround := rounded_fpSub cell (unpack_fpOfNat hp) (unpack_fpOfNat hh)
  rw [fpReal_fpOfNat hp, fpReal_fpOfNat hh] at hround
  obtain ⟨hfin, hval⟩ := Rounded.eq_int (z := p - h) (by push_cast; exact hround)
    (abs_sub_le_iff.2 ⟨by omega, by omega⟩)
  refine ⟨hfin, by rw [hval]; push_cast; rfl, ?_⟩
  rintro rfl
  obtain ⟨-, -, hzero, -⟩ := finite_special cell (unpack_fpOfNat hp) (unpack_fpOfNat hp)
  rw [hzero (sub_self _), packMag_zero]
  rfl

/-! QUANT and DEQUANT (44_quant.md R252, R253) -/

theorem quantCells_getElem? {ties : RoundTies} {rom : ConstStore} {i : Nat} {xs : List F64} {x q : F64}
    (hx : xs[i]? = some x) (hq : rom.qtab[i]? = some q) :
    (quantCells ties rom xs)[i]? = some (fpRnd ties i (fpDiv i x q)) := by
  simp [quantCells, ConstStore.quantum, hx, hq]

theorem dequantCells_getElem? {rom : ConstStore} {i : Nat} {xs : List F64} {x q : F64} (hx : xs[i]? = some x)
    (hq : rom.qtab[i]? = some q) : (dequantCells rom xs)[i]? = some (fpMul i x q) := by
  simp [dequantCells, ConstStore.quantum, hx, hq]

/-- An entry of a legal table is a natural number from 1 to 65535 (10_state.md R57). -/
theorem qtabLegal.entry {tab : List F64} (h : qtabLegal tab) {i : Nat} {q : F64} (hq : tab[i]? = some q) :
    ∃ n, 1 ≤ n ∧ n ≤ 65535 ∧ q = fpOfNat n :=
  h.2 q (List.mem_of_getElem? hq)

section
variable {x : F64} {n : Nat} (cell : Nat)

theorem rounded_fpDiv_fpOfNat (hx : fpFinite x = true) (h1 : 1 ≤ n) (h53 : n ≤ 2 ^ 53) :
    Rounded (fpReal x / n) (fpDiv cell x (fpOfNat n)) := by
  obtain ⟨p, m, hm⟩ := fpFinite_iff.1 hx
  have h := rounded_fpDiv cell hm (unpack_fpOfNat h53)
  rw [fpReal_fpOfNat h53] at h
  exact h (Nat.cast_ne_zero.2 (by omega))

theorem rounded_fpMul_fpOfNat (hx : fpFinite x = true) (h53 : n ≤ 2 ^ 53) :
    Rounded (fpReal x * n) (fpMul cell x (fpOfNat n)) := by
  obtain ⟨p, m, hm⟩ := fpFinite_iff.1 hx
  have h := rounded_fpMul cell hm (unpack_fpOfNat h53)
  rwa [fpReal_fpOfNat h53] at h

/-- A number times or divided by a natural number keeps its sign. -/
theorem fpMul_fpOfNat_msb (hfin : fpFinite (fpMul cell x (fpOfNat n)) = true) (h53 : n ≤ 2 ^ 53) :
    (fpMul cell x (fpOfNat n)).msb = x.msb := by
  rw [fpMul_msb (fpIsNaN_eq_false_of_finite hfin), msb_fpOfNat h53, Bool.bne_false]

theorem fpDiv_fpOfNat_msb (hfin : fpFinite (fpDiv cell x (fpOfNat n)) = true) (h53 : n ≤ 2 ^ 53) :
    (fpDiv cell x (fpOfNat n)).msb = x.msb := by
  rw [fpDiv_msb (fpIsNaN_eq_false_of_finite hfin), msb_fpOfNat h53, Bool.bne_false]

/-- An integer times a natural number is exact up to 2^53 in magnitude. -/
theorem fpMul_int {k : ℤ} (hx : fpFinite x = true) (hk : fpReal x = k) (h53 : n ≤ 2 ^ 53) (hprod : |k * n| ≤ 2 ^ 53) :
    fpFinite (fpMul cell x (fpOfNat n)) = true ∧ fpReal (fpMul cell x (fpOfNat n)) = k * n := by
  have hround := rounded_fpMul_fpOfNat cell hx h53
  rw [hk] at hround
  have h := Rounded.eq_int (z := k * n) (by push_cast; exact hround) hprod
  push_cast at h
  exact h

/-- QUANT takes back what DEQUANT did to an integer, bit for bit (44_quant.md R258). -/
theorem fpRnd_fpDiv_fpMul {k : ℤ} (ties : RoundTies) (hx : fpFinite x = true) (hk : fpReal x = k) (h1 : 1 ≤ n)
    (h53 : n ≤ 2 ^ 53) (hprod : |k * n| ≤ 2 ^ 53) :
    fpRnd ties cell (fpDiv cell (fpMul cell x (fpOfNat n)) (fpOfNat n)) = x := by
  have hn : (n : ℝ) ≠ 0 := Nat.cast_ne_zero.2 (by omega)
  obtain ⟨hmfin, hmval⟩ := fpMul_int cell hx hk h53 hprod
  have hmsb := fpMul_fpOfNat_msb cell hmfin h53
  have hround := rounded_fpDiv_fpOfNat cell hmfin h1 h53
  rw [hmval, mul_div_cancel_right₀ _ hn] at hround
  have hkle : |k| ≤ 2 ^ 53 := by
    rw [abs_mul, Nat.abs_cast] at hprod
    nlinarith [abs_nonneg k]
  obtain ⟨hdfin, hdval⟩ := hround.eq_int hkle
  rw [fpRnd_of_int hdfin hdval]
  exact eq_of_fpReal_eq hdfin hx ((fpDiv_fpOfNat_msb cell hdfin h53).trans hmsb) (hdval.trans hk.symm)

end

/-! A table of ones (44_quant.md R258) -/

theorem unpack_one : unpack 0x3FF0000000000000#64 = .fin false fpOne := by decide +kernel

section
variable {x : F64} (cell : Nat)

/-- A number times one is the number, bit for bit. -/
theorem fpMul_one (h : fpIsNaN x = false) : fpMul cell x 0x3FF0000000000000#64 = x := by
  cases hx : unpack x with
  | nan => rw [fpIsNaN_iff.2 hx] at h; cases h
  | inf p =>
    rw [fpMul, hx, unpack_one, mulCore, if_neg fpOne_pos.ne', Bool.bne_false]
    exact (eq_of_unpack_inf hx).symm
  | fin p m =>
    obtain ⟨mag, hmag, hpat, rfl⟩ := finite_packMag hx
    rw [fpMul_fin cell hx unpack_one, roundMag_exact hmag fpOne_pos, Bool.bne_false, ← hpat]

/-- A number divided by one is the number, bit for bit. -/
theorem fpDiv_one (h : fpIsNaN x = false) : fpDiv cell x 0x3FF0000000000000#64 = x := by
  cases hx : unpack x with
  | nan => rw [fpIsNaN_iff.2 hx] at h; cases h
  | inf p =>
    rw [fpDiv, hx, unpack_one, divCore, Bool.bne_false]
    exact (eq_of_unpack_inf hx).symm
  | fin p m =>
    obtain ⟨mag, hmag, hpat, rfl⟩ := finite_packMag hx
    rw [fpDiv_fin cell hx unpack_one fpOne_pos.ne', roundMag_exact hmag fpOne_pos, Bool.bne_false, ← hpat]

end

/-! Small coefficients (44_quant.md R252) -/

/-- The largest value below a half. -/
def belowHalf : F64 := 0x3FDFFFFFFFFFFFFF#64

theorem unpack_belowHalf : unpack belowHalf = .fin false ((2 ^ 53 - 1) * 2 ^ 1020) := by decide +kernel

/-- A binary64 significand k below n halves, in units of 2^-(e + 54), is at most n times the largest value below a half:
the gap between n / 2 and the value before it is at least n times the gap below a half. -/
theorem significand_le_of_lt_half {k s n e : Nat} (hs : s = 0 ∨ 2 ^ 52 ≤ k) (hk : k < 2 ^ 53) (h1 : 1 ≤ n)
    (h53 : n < 2 ^ 53) (h : k * 2 ^ s < n * 2 ^ (e + 53)) : k * 2 ^ s ≤ n * ((2 ^ 53 - 1) * 2 ^ e) := by
  obtain ⟨a, halo, hahi⟩ : ∃ a, 2 ^ a ≤ n ∧ n < 2 ^ (a + 1) :=
    ⟨Nat.log2 n, Nat.log2_self_le (by omega), Nat.lt_log2_self⟩
  have ha : a < 53 := (Nat.pow_lt_pow_iff_right one_lt_two).1 (halo.trans_lt h53)
  by_cases hsmall : s ≤ a + e
  · calc k * 2 ^ s ≤ (2 ^ 53 - 1) * 2 ^ (a + e) :=
          Nat.mul_le_mul (by omega) (Nat.pow_le_pow_right two_pos hsmall)
      _ = 2 ^ a * ((2 ^ 53 - 1) * 2 ^ e) := by rw [pow_add]; ring
      _ ≤ n * ((2 ^ 53 - 1) * 2 ^ e) := Nat.mul_le_mul_right _ halo
  · have hlt : 2 ^ (52 + s) < 2 ^ (a + 1 + (e + 53)) := by
      calc 2 ^ (52 + s) = 2 ^ 52 * 2 ^ s := pow_add ..
        _ ≤ k * 2 ^ s := Nat.mul_le_mul_right _ (hs.resolve_left (by omega))
        _ < n * 2 ^ (e + 53) := h
        _ ≤ 2 ^ (a + 1) * 2 ^ (e + 53) := Nat.mul_le_mul_right _ hahi.le
        _ = 2 ^ (a + 1 + (e + 53)) := (pow_add ..).symm
    have hs1 := (Nat.pow_lt_pow_iff_right one_lt_two).1 hlt
    obtain rfl : s = a + 1 + e := by omega
    have hmul : n * 2 ^ (e + 53) = n * 2 ^ (52 - a) * 2 ^ (a + 1 + e) := by
      rw [mul_assoc, ← pow_add]; congr 2; omega
    rw [hmul] at h
    have hnext : (k + 1) * 2 ^ (a + 1 + e) ≤ n * 2 ^ (52 - a) * 2 ^ (a + 1 + e) :=
      Nat.mul_le_mul_right _ (Nat.lt_of_mul_lt_mul_right h)
    have hgap : n * 2 ^ e ≤ 2 ^ (a + 1 + e) := by
      rw [pow_add]; exact Nat.mul_le_mul_right _ hahi.le
    have hsplit : n * ((2 ^ 53 - 1) * 2 ^ e) = n * 2 ^ (e + 53) - n * 2 ^ e := by
      rw [Nat.sub_mul, Nat.mul_sub, ← pow_add, one_mul, add_comm]
    rw [Nat.succ_mul, ← hmul] at hnext
    omega

theorem fpOne_eq_two_mul : fpOne = 2 * 2 ^ (1020 + 53) := by rw [fpOne, ← pow_succ']

/-- A coefficient below half of n in magnitude is at most n times the largest value below a half, so its quotient by n
does not round up to a half. -/
theorem unitsOf_le_of_lt_half {mag n : Nat} (h1 : 1 ≤ n) (h53 : n < 2 ^ 53) (h : 2 * unitsOf mag < n * fpOne) :
    unitsOf mag ≤ n * ((2 ^ 53 - 1) * 2 ^ 1020) := by
  obtain ⟨s, k, hs, hk, rfl⟩ := mag_shift mag
  rw [unitsOf_shift hs hk.le] at h ⊢
  refine significand_le_of_lt_half hs hk h1 h53 ?_
  rw [fpOne_eq_two_mul] at h
  generalize 2 ^ (1020 + 53) = u at h ⊢
  nlinarith

theorem two_mul_belowHalf_lt (e : Nat) : 2 * ((2 ^ 53 - 1) * 2 ^ e) < 2 * 2 ^ (e + 53) := by
  have hpos := Nat.two_pow_pos e
  rw [pow_add]
  omega

theorem fpReal_belowHalf_lt : fpReal belowHalf < 1 / 2 := by
  obtain ⟨half, hhalf, hlt⟩ : ∃ half, unpack belowHalf = .fin false half ∧ 2 * half < fpOne :=
    ⟨_, unpack_belowHalf, (two_mul_belowHalf_lt 1020).trans_eq fpOne_eq_two_mul.symm⟩
  have hlt : (2 * half : ℝ) < fpOne := by exact_mod_cast hlt
  rw [fpReal_fin_pos hhalf, div_lt_div_iff₀ fpOne_cast_pos two_pos]
  linarith

/-- A coefficient below half its table value in magnitude quantizes to the zero of its sign (44_quant.md R252). -/
theorem fpRnd_fpDiv_small {x : F64} {n : Nat} (hx : fpFinite x = true) (h1 : 1 ≤ n) (h53 : n < 2 ^ 53)
    (h : 2 * |fpReal x| < n) (ties : RoundTies) (cell : Nat) :
    fpRnd ties cell (fpDiv cell x (fpOfNat n)) = x &&& 0x8000000000000000#64 := by
  obtain ⟨p, m, hm⟩ := fpFinite_iff.1 hx
  obtain ⟨mag, hmag, -, rfl⟩ := finite_packMag hm
  have hn : (0 : ℝ) < n := Nat.cast_pos.2 (by omega)
  have habs : |fpReal x| = unitsOf mag / fpOne := by
    rw [fpReal_fin hm, signed_cast, mul_div_assoc, abs_mul, abs_signFactor, one_mul, abs_of_nonneg (units_nonneg _)]
  have hunits : 2 * unitsOf mag < n * fpOne := by
    rw [habs, ← mul_div_assoc, div_lt_iff₀ fpOne_cast_pos] at h
    exact_mod_cast h
  obtain ⟨half, hhalf, hbound⟩ : ∃ half, unpack belowHalf = .fin false half ∧ unitsOf mag ≤ n * half :=
    ⟨_, unpack_belowHalf, unitsOf_le_of_lt_half h1 h53 hunits⟩
  have hle : |fpReal x / n| ≤ fpReal belowHalf := by
    rw [abs_div, Nat.abs_cast, div_le_iff₀ hn, habs, fpReal_fin_pos hhalf, div_mul_eq_mul_div,
      div_le_div_iff_of_pos_right fpOne_cast_pos, mul_comm]
    exact_mod_cast hbound
  have hfl := (rounded_fpDiv_fpOfNat cell hx h1 h53.le).isFl_of_le
    (hle.trans (fpReal_belowHalf_lt.le.trans (by norm_num)))
  have hquot := hfl.abs_le_of_abs_le (fpFinite_iff.2 ⟨_, _, hhalf⟩) hle
  rw [fpRnd_of_lt_half hfl.1 (hquot.trans_lt fpReal_belowHalf_lt), fpDiv_fpOfNat_msb cell hfl.1 h53.le,
    packMag_zero_signOnly]

/-! RECON (44_quant.md R254) -/

theorem fpOfNat_257 : fpOfNat 257 = 0x4070100000000000#64 := by decide +kernel

theorem fpOfNat_65535 : fpOfNat 65535 = 0x40EFFFE000000000#64 := by decide +kernel

theorem fpFinite_fpZero : fpFinite fpZero = true := by decide

theorem fpReal_fpZero : fpReal fpZero = 0 := by
  rw [fpReal_fin_pos (show unpack fpZero = .fin false 0 by decide), Nat.cast_zero, zero_div]

theorem fpReal_65535 : fpReal (fpOfNat 65535) = 65535 := by
  rw [fpReal_fpOfNat (by norm_num), Nat.cast_ofNat]

/-- The factor from samples of a depth to the sample range of 0 to 65535 (44_quant.md R254). -/
def sampleFactor (d : Nat) : Nat := if d = 8 then 257 else 1

/-- RECON's step between rounding and clipping: times 257 at depth 8 only. -/
def scaleSample (d cell : Nat) (z : F64) : F64 := if d = 8 then fpMul cell z (fpOfNat 257) else z

theorem reconCell_eq_clip (ties : RoundTies) (d cell : Nat) (y : F64) : reconCell ties d cell y =
    fpClip (scaleSample d cell (fpRnd ties cell (fpAdd cell y (halfRange d)))) fpZero (fpOfNat 65535) := rfl

theorem reconCell_eight (ties : RoundTies) (cell : Nat) (y : F64) : reconCell ties 8 cell y =
    fpClip (fpMul cell (fpRnd ties cell (fpAdd cell y 0x4060000000000000#64)) 0x4070100000000000#64)
      0x0000000000000000#64 0x40EFFFE000000000#64 := by
  have hhalf : halfRange 8 = 0x4060000000000000#64 := halfRange_eq (.inl rfl)
  rw [reconCell_eq_clip, scaleSample, if_pos rfl, hhalf, fpOfNat_257, fpOfNat_65535, fpZero]

theorem reconCell_sixteen (ties : RoundTies) (cell : Nat) (y : F64) : reconCell ties 16 cell y =
    fpClip (fpRnd ties cell (fpAdd cell y 0x40E0000000000000#64)) 0x0000000000000000#64 0x40EFFFE000000000#64 := by
  have hhalf : halfRange 16 = 0x40E0000000000000#64 := halfRange_eq (.inr rfl)
  rw [reconCell_eq_clip, scaleSample, if_neg (by decide), hhalf, fpOfNat_65535, fpZero]

theorem reconCells_getElem? (ties : RoundTies) (rom : ConstStore) (d : Nat) {xs : List F64} {i : Nat} (hi : i < 64) :
    ∃ y, (inverseDct rom xs)[i]? = some y ∧ (reconCells ties rom d xs)[i]? = some (reconCell ties d i y) := by
  have hy := List.getElem?_eq_getElem (l := inverseDct rom xs) (i := i) (by rwa [inverseDct_length])
  exact ⟨_, hy, by rw [reconCells, List.getElem?_mapIdx, hy, Option.map_some]⟩

/-- Every element of RECON's result is RECON's cell of an element of the inverse DCT. -/
theorem mem_reconCells {ties : RoundTies} {rom : ConstStore} {d : Nat} {xs : List F64} {w : F64}
    (h : w ∈ reconCells ties rom d xs) :
    ∃ i y, i < 64 ∧ (inverseDct rom xs)[i]? = some y ∧ w = reconCell ties d i y := by
  obtain ⟨i, hi, rfl⟩ := List.mem_mapIdx.1 h
  exact ⟨i, _, by rwa [inverseDct_length] at hi, List.getElem?_eq_getElem hi, rfl⟩

section
variable {d : Nat} {z : F64} (cell : Nat)

theorem scaleSample_inf {p : Bool} (h : unpack z = .inf p) : unpack (scaleSample d cell z) = .inf p := by
  unfold scaleSample
  split
  · have hnonzero : fpIsZero (fpOfNat 257) = false := by decide +kernel
    obtain ⟨hmul, -⟩ := inf_fin_mul cell h (unpack_fpOfNat (n := 257) (by norm_num))
    rw [(hmul hnonzero).1, Bool.bne_false]
  · exact h

theorem scaleSample_nan (h : unpack z = .nan) : unpack (scaleSample d cell z) = .nan := by
  unfold scaleSample
  split
  · obtain ⟨-, -, hmul, -⟩ := nanOperand_gives_nan cell (b := fpOfNat 257) (.inl (fpIsNaN_iff.2 h))
    exact fpIsNaN_iff.1 hmul
  · exact h

theorem fpFinite_of_scaleSample (h : fpFinite (scaleSample d cell z) = true) : fpFinite z = true := by
  rcases fpFinite_or_inf_or_nan z with hfin | ⟨p, hinf⟩ | hnan
  · exact hfin
  · rw [not_finite_of_inf (scaleSample_inf cell hinf)] at h; cases h
  · rw [not_finite_of_nan (scaleSample_nan cell hnan)] at h; cases h

/-- The scaled sample is the exact product, rounded. -/
theorem isFl_scaleSample (hz : fpFinite z = true) (h : fpFinite (scaleSample d cell z) = true) :
    isFl (fpReal z * sampleFactor d) (scaleSample d cell z) := by
  unfold scaleSample sampleFactor at *
  split
  · rename_i hd
    rw [if_pos hd] at h
    exact (rounded_fpMul_fpOfNat cell hz (by norm_num)).isFl_of_finite h
  · rw [Nat.cast_one, mul_one]
    exact isFl_self hz

/-- An integer sample is scaled exactly. -/
theorem scaleSample_int {n : ℤ} (hz : fpFinite z = true) (hn : fpReal z = n) (h : |n * sampleFactor d| ≤ 2 ^ 53) :
    fpFinite (scaleSample d cell z) = true ∧ fpReal (scaleSample d cell z) = n * sampleFactor d := by
  unfold scaleSample sampleFactor at *
  split
  · rename_i hd
    rw [if_pos hd] at h
    exact fpMul_int cell hz hn (by norm_num) h
  · exact ⟨hz, by rw [hn, Nat.cast_one, mul_one]⟩

end

/-! Infinities and NaNs of the inverse DCT (44_quant.md R254) -/

section
variable {d : Nat} {y : F64} (ties : RoundTies) (cell : Nat)

theorem fpFinite_halfRange (hd : d = 8 ∨ d = 16) : fpFinite (halfRange d) = true :=
  fpFinite_fpOfNat (by rcases hd with rfl | rfl <;> norm_num)

theorem scaled_of_inf {p : Bool} (hd : d = 8 ∨ d = 16) (h : unpack y = .inf p) :
    unpack (scaleSample d cell (fpRnd ties cell (fpAdd cell y (halfRange d)))) = .inf p := by
  obtain ⟨q, n, hhalf⟩ := fpFinite_iff.1 (fpFinite_halfRange hd)
  obtain ⟨hadd, -⟩ := inf_fin_add_sub cell h hhalf
  exact scaleSample_inf cell (by rw [fpRnd_inf hadd, hadd])

/-- A cell at +∞ ends as 65535. -/
theorem reconCell_posInf (hd : d = 8 ∨ d = 16) (h : unpack y = .inf false) :
    reconCell ties d cell y = fpOfNat 65535 := by
  have hinf := scaled_of_inf ties cell hd h
  exact fpClip_high (fpLt_inf_left hinf fpFinite_fpZero)
    (fpLt_inf_right (fpFinite_fpOfNat (by norm_num)) hinf)

/-- A cell at −∞ ends as 0. -/
theorem reconCell_negInf (hd : d = 8 ∨ d = 16) (h : unpack y = .inf true) : reconCell ties d cell y = fpZero :=
  fpClip_low (fpLt_inf_left (scaled_of_inf ties cell hd h) fpFinite_fpZero)

/-- A NaN stays a NaN. -/
theorem reconCell_nan (h : unpack y = .nan) : unpack (reconCell ties d cell y) = .nan := by
  obtain ⟨hadd, -⟩ := nanOperand_gives_nan cell (b := halfRange d) (.inl (fpIsNaN_iff.2 h))
  have hnan := scaleSample_nan (d := d) cell (fpRnd_nan (fpIsNaN_iff.1 hadd) ties cell)
  rw [reconCell_eq_clip, fpClip_pass (fpLt_nan_left hnan _) (fpLt_nan_right hnan _), hnan]

end

/-! The range of the reconstructed samples (44_quant.md R258) -/

/-- The rounding of an integer that ends between 0 and 65535 has not moved it. -/
theorem isFl.int_of_range {n : ℤ} {w : F64} (h : isFl n w) (hlo : 0 ≤ fpReal w) (hhi : fpReal w ≤ 65535) :
    0 ≤ n ∧ n ≤ 65535 ∧ fpReal w = n := by
  have hnonneg : 0 ≤ n := by
    by_contra hc
    obtain ⟨v, hv, hval⟩ := exists_fpReal_eq_int (z := -1) (by norm_num)
    have hle := h.le_of_le hv (by rw [hval]; exact_mod_cast (by omega : n ≤ -1))
    rw [hval, Int.cast_neg, Int.cast_one] at hle
    linarith
  have hle : n ≤ 65535 := by
    by_contra hc
    obtain ⟨v, hv, hval⟩ := exists_fpReal_eq_int (z := 65536) (by norm_num)
    have hge := h.ge_of_ge hv (by rw [hval]; exact_mod_cast (by omega : 65536 ≤ n))
    rw [hval, Int.cast_ofNat] at hge
    linarith
  obtain ⟨v, hv, hval⟩ := exists_fpReal_eq_int (z := n) (abs_le.2 ⟨by omega, by omega⟩)
  exact ⟨hnonneg, hle, h.eq_of_exact hv hval⟩

/-- A finite reconstructed sample is an integer from 0 to 65535 and a multiple of the depth's factor. -/
theorem reconCell_range {ties : RoundTies} {d cell : Nat} {y : F64} (h : fpFinite (reconCell ties d cell y) = true) :
    ∃ k : Nat, k ≤ 65535 ∧ fpReal (reconCell ties d cell y) = k ∧ sampleFactor d ∣ k := by
  rw [reconCell_eq_clip] at h ⊢
  rcases fpClip_cases fpFinite_fpZero (fpFinite_fpOfNat (by norm_num)) h with hlo | hup | ⟨hpass, hfin, hge, hle⟩
  · exact ⟨0, by norm_num, by rw [hlo, fpReal_fpZero, Nat.cast_zero], dvd_zero _⟩
  · refine ⟨65535, le_rfl, by rw [hup, fpReal_65535]; norm_num, ?_⟩
    unfold sampleFactor
    split <;> decide
  · rw [hpass]
    have hrnd := fpFinite_of_scaleSample cell hfin
    obtain ⟨-, n, hn, -⟩ := fpRnd_finite ((fpFinite_fpRnd ..).symm.trans hrnd) ties cell
    have hfl := isFl_scaleSample cell hrnd hfin
    rw [hn] at hfl
    rw [fpReal_fpZero] at hge
    rw [fpReal_65535] at hle
    obtain ⟨h0, h1, hval⟩ := isFl.int_of_range (n := n * sampleFactor d) (by push_cast; exact hfl) hge hle
    obtain ⟨k, hk⟩ := Int.eq_ofNat_of_zero_le h0
    refine ⟨k, by omega, by rw [hval, hk, Int.cast_natCast], ?_⟩
    exact Int.natCast_dvd_natCast.1 (hk ▸ dvd_mul_left _ _)

/-! Samples close to an integer -/

theorem one_le_sampleFactor (d : Nat) : 1 ≤ sampleFactor d := by
  unfold sampleFactor; split <;> norm_num

/-- Where the inverse DCT is within an eighth of an integer, adding h(d) and rounding gives that integer plus h(d). -/
theorem fpReal_fpRnd_fpAdd {y : F64} {k : ℤ} {h : Nat} (hy : fpFinite y = true) (hnear : |fpReal y - k| ≤ 1 / 8)
    (h53 : h ≤ 2 ^ 53) (hk : |k + h| ≤ 65535) (ties : RoundTies) (cell : Nat) :
    fpFinite (fpRnd ties cell (fpAdd cell y (fpOfNat h))) = true ∧
      fpReal (fpRnd ties cell (fpAdd cell y (fpOfNat h))) = (k + h : ℤ) := by
  obtain ⟨p, m, hm⟩ := fpFinite_iff.1 hy
  have hround := rounded_fpAdd cell hm (unpack_fpOfNat h53)
  rw [fpReal_fpOfNat h53] at hround
  have hsum : |fpReal y + h - (k + h : ℤ)| ≤ 1 / 8 := by
    rwa [Int.cast_add, Int.cast_natCast, add_sub_add_right_eq_sub]
  have hbound : |((k + h : ℤ) : ℝ)| ≤ 65535 := by exact_mod_cast hk
  have htri := abs_sub_abs_le_abs_sub (fpReal y + h) (k + h : ℤ)
  have hfl := hround.isFl_of_le (by linarith)
  have hle := hfl.abs_sub_int_le (hk.trans (by norm_num))
  exact ⟨by rw [fpFinite_fpRnd, hfl.1], fpReal_fpRnd hfl.1 (by linarith) ties cell⟩

theorem fpClip_of_range {v : F64} (hv : fpFinite v = true) (h0 : 0 ≤ fpReal v) (h1 : fpReal v ≤ 65535) :
    fpClip v fpZero (fpOfNat 65535) = v :=
  fpClip_pass (fpLt_eq_false hv fpFinite_fpZero (by rwa [fpReal_fpZero]))
    (fpLt_eq_false (fpFinite_fpOfNat (by norm_num)) hv (by rwa [fpReal_65535]))

/-- Where the inverse DCT is within an eighth of an integer, RECON delivers that integer plus h(d), scaled, exactly. -/
theorem reconCell_of_near {d : Nat} {y : F64} {k : ℤ} (hd : d = 8 ∨ d = 16) (hy : fpFinite y = true)
    (hnear : |fpReal y - k| ≤ 1 / 8) (h0 : 0 ≤ k + (2 ^ (d - 1) : ℕ))
    (h1 : (k + (2 ^ (d - 1) : ℕ)) * sampleFactor d ≤ 65535) (ties : RoundTies) (cell : Nat) :
    fpFinite (reconCell ties d cell y) = true ∧
      fpReal (reconCell ties d cell y) = (k + (2 ^ (d - 1) : ℕ) : ℤ) * sampleFactor d := by
  have h53 : 2 ^ (d - 1) ≤ 2 ^ 53 := Nat.pow_le_pow_right two_pos (by omega)
  have hfactor : (1 : ℤ) ≤ sampleFactor d := by exact_mod_cast one_le_sampleFactor d
  have hhalf : halfRange d = fpOfNat (2 ^ (d - 1)) := rfl
  obtain ⟨hrfin, hrval⟩ := fpReal_fpRnd_fpAdd hy hnear h53 (abs_le.2 ⟨by omega, by nlinarith⟩) ties cell
  obtain ⟨hsfin, hsval⟩ := scaleSample_int (d := d) cell hrfin hrval (abs_le.2 ⟨by nlinarith, by linarith⟩)
  have hlo : (0 : ℝ) ≤ (k + (2 ^ (d - 1) : ℕ) : ℤ) * sampleFactor d := by exact_mod_cast mul_nonneg h0 (by omega)
  have hhi : ((k + (2 ^ (d - 1) : ℕ) : ℤ) * sampleFactor d : ℝ) ≤ 65535 := by exact_mod_cast h1
  rw [reconCell_eq_clip, hhalf, fpClip_of_range hsfin (hsval ▸ hlo) (hsval ▸ hhi)]
  exact ⟨hsfin, hsval⟩

/-- RECON of zeros is h(d), scaled, in every cell (44_quant.md R258). -/
theorem reconCells_of_zero {d : Nat} {xs : List F64} (hd : d = 8 ∨ d = 16) (hz : ∀ x ∈ xs, fpIsZero x = true)
    (ties : RoundTies) (rom : ConstStore) :
    reconCells ties rom d xs = List.replicate 64 (fpOfNat (2 ^ (d - 1) * sampleFactor d)) := by
  have hrange : 0 < 2 ^ (d - 1) * sampleFactor d ∧ 2 ^ (d - 1) * sampleFactor d ≤ 65535 := by
    rcases hd with rfl | rfl <;> decide
  have h53 : 2 ^ (d - 1) * sampleFactor d ≤ 2 ^ 53 := hrange.2.trans (by norm_num)
  have hreal := fpReal_fpOfNat h53
  refine List.eq_replicate_iff.2 ⟨reconCells_length .., fun w hw => ?_⟩
  obtain ⟨i, y, -, hy, rfl⟩ := mem_reconCells hw
  obtain ⟨p, hp⟩ := fpIsZero_iff.1 (zeroToZero_zero hz _ y (List.mem_of_getElem? hy))
  have hval : fpReal y = 0 := by rw [fpReal_fin hp, signed_cast, Nat.cast_zero, mul_zero, zero_div]
  obtain ⟨hfin, hcell⟩ := reconCell_of_near (k := 0) hd (fpFinite_iff.2 ⟨_, _, hp⟩)
    (by rw [hval, Int.cast_zero, sub_zero, abs_zero]; norm_num) (by positivity)
    (by rw [zero_add]; exact_mod_cast hrange.2) ties i
  refine eq_of_fpReal_eq_of_ne_zero hfin (fpFinite_fpOfNat h53) ?_ ?_
  · rw [hreal]; exact Nat.cast_ne_zero.2 hrange.1.ne'
  · rw [hcell, hreal, zero_add, Int.cast_natCast, Nat.cast_mul]

/-! A lone DC coefficient (42_dct.md R215) -/

/-- A product with a matrix in the middle whose only nonzero entry is its first. -/
theorem exactProduct_first {K : Type} [CommRing K] {n : ℕ} (hn : 0 < n) (l m r : ℕ → ℕ → K)
    (hm : ∀ a b, a < n → b < n → a ≠ 0 ∨ b ≠ 0 → m a b = 0) (k j : ℕ) :
    exactProduct n l m r k j = l k 0 * m 0 0 * r 0 j := by
  have hmem : 0 ∈ Finset.range n := Finset.mem_range.2 hn
  have hzero : ∀ a ∈ Finset.range n, ∀ b ∈ Finset.range n, a ≠ 0 ∨ b ≠ 0 → l k a * m a b * r b j = 0 :=
    fun a ha b hb hab => by
      rw [hm a b (Finset.mem_range.1 ha) (Finset.mem_range.1 hb) hab, mul_zero, zero_mul]
  rw [exactProduct, Finset.sum_eq_single_of_mem 0 hmem
      fun a ha ha0 => Finset.sum_eq_zero fun b hb => hzero a ha b hb (.inl ha0),
    Finset.sum_eq_single_of_mem 0 hmem fun b hb hb0 => hzero 0 hmem b hb (.inr hb0)]

/-- The first column of the exact DCT-III matrix is constant, and its square is 1 / 8. -/
theorem exactIII_first_mul_first (k j : ℕ) : exactIII 8 k 0 * exactIII 8 j 0 = 1 / 8 := by
  simp only [exactIII, lambdaII, if_true, Nat.cast_zero, mul_zero, zero_mul, zero_div, Real.cos_zero, mul_one,
    Nat.cast_ofNat]
  field_simp
  exact (Real.sq_sqrt (by norm_num)).symm

/-- The exact inverse DCT of a lone DC coefficient is an eighth of it in every cell. -/
theorem exactSim_exactIII_dc (x : F64) (i : ℕ) :
    exactSim 8 (exactIII 8) (x :: List.replicate 63 0x0000000000000000#64) (fun k l => exactIII 8 l k) i =
      fpReal x / 8 := by
  rw [exactSim, exactProduct_first (by norm_num)]
  · rw [mul_right_comm, exactIII_first_mul_first, zero_mul, zero_add, List.getD_cons_zero, one_div_mul_eq_div]
  · intro a b ha hb hab
    obtain ⟨j, hj⟩ := Nat.exists_eq_succ_of_ne_zero (n := a * 8 + b) (by omega)
    rw [hj, List.getD_cons_succ, List.getD_replicate _ (by omega)]
    exact fpReal_fpZero

theorem realOperandBound_dc {x : F64} {S : ℝ} (hx : fpFinite x = true) (h : |fpReal x| ≤ S) (h1 : 1 ≤ S) :
    realOperandBound (x :: List.replicate 63 0x0000000000000000#64) S := by
  refine ⟨rfl, fun z hz => ?_, h1⟩
  rcases List.mem_cons.1 hz with rfl | hz
  · exact ⟨hx, h⟩
  · rw [(List.mem_replicate.1 hz).2]
    refine ⟨fpFinite_fpZero, ?_⟩
    rw [show fpReal 0x0000000000000000#64 = 0 from fpReal_fpZero, abs_zero]
    linarith

end Sys2Proof.Machine

namespace Sys2Proof

open Machine

/-- Settles O16: the first check that fails, in the order in which the commands run their checks, gives the error. -/
theorem depthOperandErrors : Obligations.DepthOperandErrors := by
  intro s vd vs d i hi
  obtain ⟨f, hf⟩ := depthCommand_eq_finish hi s
  rw [hf]
  exact ⟨fun h => finish_bind_error (State.depthOperand_uninit h) f,
    fun r c zs h => finish_bind_error (State.depthOperand_type h) f,
    fun r c xs h h8 h16 => finish_bind_error (State.depthOperand_depth h (not_or.2 ⟨h8, h16⟩)) f,
    fun r c xs h hd hrc => finish_bind_error (State.depthOperand_shape h hd hrc) f⟩

/-- Settles O25: the sample and h(d) are natural numbers below 2^53, so their difference is exact. -/
theorem centerOfSampleIsExact : Obligations.CenterOfSampleIsExact := by
  intro s vd vs d xs hd h
  refine ⟨_, finish_depthOperand vd h hd _, fun i p hp hx => ⟨_, centerCells_getElem? hx, ?_⟩⟩
  have hd53 : 2 ^ d ≤ 2 ^ 53 := Nat.pow_le_pow_right two_pos (by omega)
  have hhalf53 : 2 ^ (d - 1) ≤ 2 ^ 53 := Nat.pow_le_pow_right two_pos (by omega)
  obtain ⟨hfin, hval, hzero⟩ := fpSub_fpOfNat i (hp.le.trans hd53) hhalf53
  exact ⟨hfin, fpRat_eq_iff.2 (by push_cast at hval ⊢; exact hval), hzero⟩

/-- Settles O26: the quotient stays below a half when it is rounded, and such a value rounds to the zero of its sign. -/
theorem smallCoefficientsQuantizeToZero : Obligations.SmallCoefficientsQuantizeToZero := by
  intro s vd vs xs hs h
  refine ⟨_, finish_blockOperand vd h _, fun i x q hx hq hfin hsmall => ?_⟩
  obtain ⟨-, -, -, -, hlegal⟩ := hs.rom
  obtain ⟨n, h1, h65535, rfl⟩ := hlegal.entry hq
  have hreal : 2 * |fpReal x| < fpReal (fpOfNat n) := by
    rw [fpReal, fpReal]; exact_mod_cast hsmall
  rw [fpReal_fpOfNat (by omega)] at hreal
  rw [quantCells_getElem? hx hq, fpRnd_fpDiv_small hfin h1 (by omega) hreal]

/-- Settles O27: RECON's cell with the constants of each depth, and an infinity or a NaN followed through its steps. -/
theorem reconCommandResult : Obligations.ReconCommandResult := by
  unfold Obligations.ReconCommandResult
  intro at8 at16
  have h8 : ∀ ties i y, at8 ties i y = reconCell ties 8 i y := fun ties i y => (reconCell_eight ties i y).symm
  have h16 : ∀ ties i y, at16 ties i y = reconCell ties 16 i y := fun ties i y => (reconCell_sixteen ties i y).symm
  refine ⟨fun s vd vs d xs hd h => ⟨_, finish_depthOperand vd h hd _, reconCells_length .., fun i hi => ?_⟩,
    fun ties i y => ?_⟩
  · obtain ⟨y, hy, hcell⟩ := reconCells_getElem? s.ties s.rom d (xs := xs) hi
    refine ⟨y, hy, ?_, ?_⟩
    · rintro rfl; rw [h8, hcell]
    · rintro rfl; rw [h16, hcell]
  · rw [h8, h16, fpIsNaN_iff, fpIsNaN_iff, fpIsNaN_iff, ← fpOfNat_65535]
    exact ⟨fun h => ⟨reconCell_posInf ties i (.inl rfl) h, reconCell_posInf ties i (.inr rfl) h⟩,
      fun h => ⟨reconCell_negInf ties i (.inl rfl) h, reconCell_negInf ties i (.inr rfl) h⟩,
      fun h => ⟨reconCell_nan ties i h, reconCell_nan ties i h⟩⟩

/-- Settles O28: the inverse DCT of zeros is zeros, so each cell is h(d), scaled. -/
theorem reconOfZeroBlock : Obligations.ReconOfZeroBlock := by
  intro s vd vs xs h hz
  have h8 : fpOfNat (2 ^ (8 - 1) * sampleFactor 8) = 0x40E0100000000000#64 := by decide +kernel
  have h16 : fpOfNat (2 ^ (16 - 1) * sampleFactor 16) = 0x40E0000000000000#64 := by decide +kernel
  rw [← h8, ← h16, ← reconCells_of_zero (.inl rfl) hz s.ties s.rom, ← reconCells_of_zero (.inr rfl) hz s.ties s.rom]
  exact ⟨finish_depthOperand vd h (.inl rfl) _, finish_depthOperand vd h (.inr rfl) _⟩

/-- Settles O29: both commands end in RECON's cells, and a finite one is in the range. -/
theorem reconstructedSamplesAreInRange : Obligations.ReconstructedSamplesAreInRange := by
  intro s t vd vs d xs h hd i hi ht
  obtain ⟨ys, hys⟩ : ∃ ys, exec i s = .next (s.committed vd ⟨8, 8, .real (reconCells s.ties s.rom d ys)⟩) := by
    simp only [List.mem_cons, List.not_mem_nil, or_false] at hi
    rcases hi with rfl | rfl
    · exact ⟨xs, finish_depthOperand vd h hd _⟩
    · exact ⟨dequantCells s.rom xs, finish_depthOperand vd h hd _⟩
  obtain rfl := Host.Outcome.next.inj (ht.symm.trans hys)
  refine ⟨_, State.committed_v_self vd, reconCells_length .., fun w hw hfin => ?_⟩
  obtain ⟨j, y, -, -, rfl⟩ := mem_reconCells hw
  obtain ⟨k, hk, hval, hdvd⟩ := reconCell_range hfin
  exact ⟨k, hk, fpRat_eq_iff.2 (by rw [hval, Rat.cast_natCast]), by rintro rfl; exact hdvd⟩

/-- Settles O30: each step reads what the step before it committed, with the same constants and tie rule. -/
theorem compositeCommandsAreTheirSteps : Obligations.CompositeCommandsAreTheirSteps := by
  intro s vd vr vs d xs hd h
  exact ⟨⟨_, _, _, _, finish_depthOperand vr h hd _, finish_blockOperand vr (State.committed_v_self vr) _,
      finish_blockOperand vd (State.committed_v_self vr) _, finish_depthOperand vd h hd _, State.committed_v_self vd,
      rfl, rfl⟩,
    ⟨_, _, _, finish_blockOperand vr h _, finish_depthOperand vd (State.committed_v_self vr) hd _,
      finish_depthOperand vd h hd _, State.committed_v_self vd, rfl, rfl⟩⟩

/-- Settles O31: dividing and multiplying by one keep every number bit for bit. -/
theorem identityTableRoundTrip : Obligations.IdentityTableRoundTrip := by
  intro s va vb vs xs htab hlen h
  refine ⟨_, _, _, finish_blockOperand va h _, finish_blockOperand vb (State.committed_v_self va) _,
    State.committed_v_self vb, by rw [dequantCells_length, quantCells_length, hlen], fun i x hx hnan => ?_⟩
  have hone : s.rom.qtab[i]? = some 0x3FF0000000000000#64 := by
    rw [htab, List.getElem?_replicate, if_pos (hlen ▸ (List.getElem?_eq_some_iff.1 hx).1)]
  have hrnd := fpIsNaN_fpRnd hnan s.ties i
  have hquant := quantCells_getElem? (ties := s.ties) hx hone
  rw [fpDiv_one i hnan] at hquant
  have hdequant := dequantCells_getElem? hquant hone
  rwa [fpMul_one i hrnd] at hdequant

/-- Settles O32: cell by cell, QUANT takes back what DEQUANT did. -/
theorem quantOfDequantIsIdentity : Obligations.QuantOfDequantIsIdentity := by
  intro s va vb vs xs hs h hints
  obtain ⟨-, -, -, -, hlegal⟩ := hs.rom
  have hlen : xs.length = 64 := realBlock_length (hs.regs vs _ h)
  have hcells : quantCells s.ties s.rom (dequantCells s.rom xs) = xs := by
    refine List.ext_getElem? fun i => ?_
    cases hx : xs[i]? with
    | none =>
      rw [List.getElem?_eq_none_iff] at hx ⊢
      rwa [quantCells_length, dequantCells_length]
    | some x =>
      have hi : i < s.rom.qtab.length := by
        rw [hlegal.1, ← hlen]; exact (List.getElem?_eq_some_iff.1 hx).1
      have hq := List.getElem?_eq_getElem hi
      obtain ⟨hfin, ⟨k, hk⟩, hprod⟩ := hints i x _ hx hq
      obtain ⟨n, h1, h65535, hn⟩ := hlegal.entry hq
      rw [hn] at hq hprod
      rw [quantCells_getElem? (dequantCells_getElem? hx hq) hq,
        fpRnd_fpDiv_fpMul i s.ties hfin (k := k) (by rw [fpRat_eq_iff] at hk; exact_mod_cast hk) h1 (by omega) ?_]
      have hqn : fpRat (fpOfNat n) = n := fpRat_eq_iff.2 (by rw [fpReal_fpOfNat (by omega), Rat.cast_natCast])
      rw [hk, hqn] at hprod
      exact_mod_cast hprod
  refine ⟨_, _, finish_blockOperand va h _, finish_blockOperand vb (State.committed_v_self va) _,
    (State.committed_v_self vb).trans ?_⟩
  exact congrArg (fun ys => some (realBlock ys)) hcells

/-- Settles O58: P-ACC puts every cell of the inverse DCT within an eighth of k, as S = 1024 bounds the operand. -/
theorem reconOfDcCoefficient : Obligations.ReconOfDcCoefficient := by
  rintro eps s vd vs k x xs rfl hacc heps hs hlo hhi hfin hval h
  obtain ⟨-, hc8III, -⟩ := hs.rom
  refine ⟨_, finish_depthOperand vd h (.inl rfl) _, reconCells_length .., fun w hw => ?_⟩
  obtain ⟨i, y, hi, hy, rfl⟩ := mem_reconCells hw
  have habs : |fpReal x| ≤ 1024 := by
    have hlo : (-128 : ℝ) ≤ k := by exact_mod_cast hlo
    have hhi : (k : ℝ) ≤ 127 := by exact_mod_cast hhi
    rw [hval, abs_le]
    constructor <;> linarith
  have hnear := hacc 1024 i (realOperandBound_dc hfin habs (by norm_num)) hi
  rw [inverseDct, hc8III] at hy
  rw [exactSim_exactIII_dc, hval, mul_div_cancel_left₀ _ (by norm_num), List.getD_eq_getElem?_getD, hy,
    Option.getD_some] at hnear
  obtain ⟨hyfin, hle⟩ := hnear
  obtain ⟨hwfin, hwval⟩ := reconCell_of_near (.inl rfl) hyfin (hle.trans (by linarith)) (by norm_num; omega)
    (by norm_num [sampleFactor]; omega) s.ties i
  exact ⟨hwfin, hwval.trans (by norm_num [sampleFactor])⟩

end Sys2Proof

/-! PROOFS. Coefficient masking (45_mask.md): the words that MKMASK writes as the keep count grows, and what APPLYMASK
delivers, once and twice. -/

namespace Sys2Proof.Machine

/-! MKMASK (45_mask.md R282, R285) -/

theorem execMkmask_eq (j : Fin 4) (pol : Policy) (k : Nat) (s : State) :
    execMkmask j pol k s = .next (s.masked j (maskWord pol k)) := rfl

/-- A larger keep count keeps the cells of a smaller one. -/
theorem keptCells_mono (pol : Policy) {k l : Nat} (h : k ≤ l) : keptCells pol k ⊆ keptCells pol l := by
  intro i hi
  rw [mem_keptCells] at hi ⊢
  obtain ⟨h64, hregion, hbefore⟩ := hi
  exact ⟨h64, hregion, hbefore.trans_le h⟩

/-- The number of zero bits of a mask word. -/
theorem maskWord_zeroBits_length (pol : Policy) (k : Nat) :
    ((List.range 64).filter fun i => !(maskWord pol k).getLsbD i).length = min k (kmax pol) := by
  rw [(maskWord_zeroBits pol k).length_eq, keptCells_length]

/-- The words that 45_mask.md R285 gives: nothing kept, everything kept, and the regions of QUAD and DIAG. -/
theorem maskWord_extremes :
    maskWord .lin 0 = 0xFFFFFFFFFFFFFFFF#64 ∧ maskWord .lin 64 = 0x0000000000000000#64 ∧
      maskWord .quad 16 = 0xFFFFFFFFF0F0F0F0#64 ∧ maskWord .diag 36 = 0xFEFCF8F0E0C08000#64 ∧
      maskWord .diag 32 = 0xFFFFFCF0E0C08000#64 := by
  decide +kernel

/-! APPLYMASK (45_mask.md R283, R285) -/

/-- APPLYMASK of a valid mask on an 8×8 REAL operand commits the masked cells. -/
theorem execApplymask_block {s : State} {vs : Fin 8} {j : Fin 4} {xs : List F64} {w : BitVec 64} (vd : Fin 8)
    (h : s.v[vs] = some ⟨8, 8, .real xs⟩) (hw : s.masks[j] = some w) :
    execApplymask vd vs j s = .next (s.committed vd ⟨8, 8, .real (maskCells w xs)⟩) :=
  finish_bind_ok (State.maskOperand_ok.2 ⟨h, hw⟩) _

theorem maskCells_getElem? {w : BitVec 64} {xs : List F64} {i : Nat} {x : F64} (h : xs[i]? = some x) :
    (maskCells w xs)[i]? = some (if w.getLsbD i then fpZero else x) := by
  rw [maskCells, List.getElem?_mapIdx, h, Option.map_some]

/-- Two masks one after the other zero the cells that either zeroes. -/
theorem maskCells_maskCells (a b : BitVec 64) (xs : List F64) :
    maskCells b (maskCells a xs) = maskCells (a ||| b) xs := by
  refine List.ext_getElem (by simp) fun i _ hi => ?_
  have hx : i < xs.length := by simpa using hi
  rw [maskCells_cell b _ (by simpa using hx), maskCells_cell a xs hx, maskCells_cell (a ||| b) xs hx,
    BitVec.getLsbD_or]
  cases a.getLsbD i <;> cases b.getLsbD i <;> rfl

/-- A mask applied twice. -/
theorem maskCells_idem (w : BitVec 64) (xs : List F64) : maskCells w (maskCells w xs) = maskCells w xs := by
  rw [maskCells_maskCells, BitVec.or_self]

end Sys2Proof.Machine

namespace Sys2Proof

open Machine

/-- Settles O34: the kept cells grow with k, and two masks in a row act as their OR, which for one mask twice is that
mask. -/
theorem maskProperties : Obligations.MaskProperties := by
  refine ⟨fun s j => ?_, fun s j pol k => ?_, fun s va vb vs j xs w h hw => ?_,
    fun s va vb vs ja jb xs a b h ha hb => ?_⟩
  · obtain ⟨hnone, hall, hquad, hdiag36, hdiag32⟩ := maskWord_extremes
    rw [← hnone, ← hall, ← hquad, ← hdiag36, ← hdiag32]
    exact ⟨rfl, rfl, rfl, rfl, rfl⟩
  · refine ⟨_, _, execMkmask_eq j pol k s, execMkmask_eq j pol (k + 1) s, fun i hi hzero => ?_, ?_⟩
    · rw [maskWord_bit_eq_false hi] at hzero ⊢
      exact keptCells_mono pol k.le_succ hzero
    · rw [maskWord_zeroBits_length]
      cases pol <;> rfl
  · refine ⟨_, _, execApplymask_block va h hw, execApplymask_block vb (State.committed_v_self va) hw, ?_⟩
    rw [State.committed_v_self, State.committed_v_self, maskCells_idem]
  · refine ⟨_, _, _, execApplymask_block va h ha, execApplymask_block vb (State.committed_v_self va) hb,
      execApplymask_block vb h (Vector.getElem_set_self ..), ?_⟩
    rw [State.committed_v_self, State.committed_v_self, maskCells_maskCells]

/-- Settles O35: APPLYMASK's committed block, cell by cell. -/
theorem applymaskResult : Obligations.ApplymaskResult := by
  intro s vd vs j xs w h hw
  exact ⟨_, execApplymask_block vd h hw, maskCells_length w xs, fun i x hx => maskCells_getElem? hx⟩

end Sys2Proof

/-! PROOFS. Exceptions (60_exceptions.md): what raising an error records, and the interrupt output after a command and
after a write that changes IRQ_EN or DONE. -/

namespace Sys2Proof.Machine

variable {s t : State} {w : Word}

/-! The record of an error (60_exceptions.md R302) -/

theorem State.raise_of_err_none {p : Pending} (hp : s.pend = some p) (herr : s.err = none) (e : ErrCode) :
    s.raise e = { s with err := some ⟨e, p.word⟩, pend := none, done := true } := by
  simp [State.raise_eq, State.commandWord, hp, herr]

theorem State.raise_of_err_isSome (herr : s.err.isSome = true) (e : ErrCode) :
    s.raise e = { s with merr := true, pend := none, done := true } := by
  obtain ⟨r, hr⟩ := Option.isSome_iff_exists.1 herr
  simp [State.raise_eq, hr]

/-- A command touches the error record and MERR only by raising an error. -/
theorem Executes.records (h : Executes s w t) : (t.err = s.err ∧ t.merr = s.merr) ∨ ∃ e, t = s.raise e := by
  cases h with
  | commit | mask | nothing => exact .inl ⟨rfl, rfl⟩
  | raised e => exact .inr ⟨e, rfl⟩

/-! The interrupt output (60_exceptions.md R310) -/

theorem State.irq_of_done_eq_false (h : s.done = false) : s.irq = false := by
  rw [State.irq, h, Bool.and_false]

/-- A completion, with a result or with an error, asserts the output exactly under IRQ_EN. -/
theorem Executes.irq (h : Executes s w t) : t.irq = s.irqEn := by
  have henable : t.irqEn = s.irqEn := by
    cases h with
    | commit | mask | nothing => rfl
    | raised e => exact s.raise_irqEn e
  rw [State.irq, henable, h.done, Bool.and_true]

/-- After a CTRL write the output is high only if the write sets IRQ_EN, with neither CLR nor SRST, while DONE = 1. -/
theorem State.writeCtrl_irq (s : State) (w : Word) :
    (s.writeCtrl w).irq = (w.getLsbD 0 && !w.getLsbD 1 && !w.getLsbD 2 && s.done) := by
  rcases s.writeCtrl_cases w with ⟨h2, h⟩ | ⟨-, h1, h⟩ | ⟨h2, h1, h⟩
  · rw [h, h2]; simp [State.irq]
  · rw [h, h1]; simp [State.irq]
  · rw [h, h1, h2]; simp [State.irq]

end Sys2Proof.Machine

namespace Sys2Proof

open Machine

/-- Settles O8: the first raise, a later one, and that a command touches the record only by a raise. -/
theorem errorsAreRecorded : Obligations.ErrorsAreRecorded := by
  refine ⟨fun s p e hp herr => ?_, fun s e herr => State.raise_of_err_isSome herr e, fun s p _ => ?_⟩
  · rw [State.raise_of_err_none hp herr]
    exact ⟨rfl, rfl, rfl⟩
  · obtain ⟨t, ht⟩ := s.execute_next p.word
    exact ⟨t, ht, (State.execute_does ht).records⟩

/-- Settles O44: the output after a completion, after the CMD and CTRL writes, and after the resets. -/
theorem interruptIsALevel : Obligations.InterruptIsALevel := by
  have hctrl (s : State) (w : Word) : (s.serve (writeAt 0x14 w)).1 = s.writeCtrl w :=
    congrArg Prod.fst (s.serve_writeAt w rfl)
  refine ⟨fun s => rfl, fun s t p hs hp h => ?_, fun s w => ?_, fun s w hw => ?_, fun s w hdone h0 h1 h2 => ?_,
    fun s => ⟨rfl, rfl⟩⟩
  · obtain ⟨hdone, -⟩ := hs.pending p hp
    have hex := State.execute_does h
    exact ⟨hdone, State.irq_of_done_eq_false hdone, hex.done, hex.irq⟩
  · rw [s.serve_writeAt w rfl]
    exact State.irq_of_done_eq_false (s.issueDrawn_done w)
  · rw [hctrl, State.writeCtrl_irq]
    rcases hw with h1 | h0 | h2
    · rw [h1]; simp
    · rw [h0]; simp
    · rw [h2]; simp
  · rw [hctrl, State.writeCtrl_irq, hdone, h0, h1, h2]
    rfl

end Sys2Proof
